-- ==== Sys2Proof/Word.lean ====
section
/-! DEFINITION. The two widths the block moves: 32-bit words (20_memory.md R50, R54) and bytes (R52). -/

namespace Sys2Proof

/-- A command word, or the word of one register access (20_memory.md R50, R54). -/
abbrev Word := BitVec 32

/-- One transferred byte, or one pin number as a command carries it (00_scope.md R10, R14). -/
abbrev Byte := BitVec 8

/-- `zext_32` of a byte (00_scope.md R15, 20_memory.md R66). -/
def zext32 (b : Byte) : Word := b.setWidth 32

end Sys2Proof
end

