-- ==== Sys2Proof/Config.lean ====
section
/-! DEFINITION. What an implementation fixes: the spec's constants (00_scope.md R10), the shape of the parameters
F_SYS, PINMAP and BASE (R11, R12, 10_state.md R26), their default values, the reference codes of the register fields,
and the free values. -/

namespace Sys2Proof

/-- The two SPI units, 00_scope.md R2: "statically identified as unit 0 and unit 1". -/
inductive UnitId where
  | unit0
  | unit1
deriving DecidableEq, Repr, Inhabited

/-- One thing of a kind for each unit: `X[0..1]` of 10_state.md R20. -/
structure Units (α : Type) where
  /-- The copy of unit 0. -/
  x0 : α
  /-- The copy of unit 1. -/
  x1 : α
deriving DecidableEq, Repr

/-- `X[u]` read. -/
def Units.get {α : Type} (x : Units α) : UnitId → α
  | .unit0 => x.x0
  | .unit1 => x.x1

/-- `X[u] <- a`. -/
def Units.set {α : Type} (x : Units α) (u : UnitId) (a : α) : Units α :=
  match u with
  | .unit0 => { x with x0 := a }
  | .unit1 => { x with x1 := a }

/-- The four pin roles (00_scope.md R11, R18). -/
inductive Role where
  | sck
  | tx
  | rx
  | cs
deriving DecidableEq, Repr

/-- The four pin sets of one unit, `PINMAP(u, ·)` (00_scope.md R11); a set is a list of which only membership is read. -/
structure RoleSets where
  /-- PINMAP(u, SCK). -/
  sck : List Byte
  /-- PINMAP(u, TX). -/
  tx : List Byte
  /-- PINMAP(u, RX). -/
  rx : List Byte
  /-- PINMAP(u, CS). -/
  cs : List Byte
deriving DecidableEq, Repr

/-- `PINMAP(u, r)` for one unit. -/
def RoleSets.get (x : RoleSets) : Role → List Byte
  | .sck => x.sck
  | .tx => x.tx
  | .rx => x.rx
  | .cs => x.cs

/-- The parameters of the model that a platform fixes (00_scope.md R11, R12; 10_state.md R26). NPINS (R13) is the
length of the pin list of the state. -/
structure Platform where
  /-- `F_SYS`, the "fixed system clock rate" in Hz (00_scope.md R12). -/
  fSys : Nat
  /-- `PINMAP` (00_scope.md R11). -/
  pinmap : Units RoleSets
  /-- `BASE[u]`, the register-base address of each unit (10_state.md R26). Its width of 32 bits is a DESIGN CHOICE of the
  model: the spec gives none (log 27). -/
  base : Units Word
deriving DecidableEq, Repr

/-- The agents that take a step (00_scope.md R19). The caller acts before the run, and the remote device is a draw. -/
inductive Agent where
  | controller
  | peripheral (u : UnitId)
deriving DecidableEq, Repr, Inhabited

/-- What the world outside the block decides and the spec leaves open. It is no part of the state: each function is
applied to a counter that the state holds. -/
structure Env where
  /-- Which agent moves where more than one may (60_exceptions.md R167 (4): "Their steps interleave freely"). -/
  turn : Nat → Agent
  /-- `draw r : 8 bits`, the remote device's byte (41_transaction.md R140). -/
  byte : Nat → Byte
  /-- The level of a chip-select line that 10_state.md R40 calls undefined. -/
  line : Nat → Bool

namespace Config

/-- Free value: the interleaving of the agents (41_transaction.md R141, 60_exceptions.md R167 (4)). Log 5. -/
opaque turn : Nat → Agent

/-- Free value: the bytes the remote device returns (41_transaction.md R140). Log 6. -/
opaque remoteByte : Nat → Byte

/-- Free value: an undefined chip-select level (10_state.md R40). Log 7. -/
opaque undefinedLine : Nat → Bool

/-- The environment of the machine's own step. -/
def env : Env := { turn := turn, byte := remoteByte, line := undefinedLine }

/-- F_MIN (00_scope.md R10). -/
def fMin : Nat := 2500
/-- F_MAX (00_scope.md R10). -/
def fMax : Nat := 25000000
/-- PRESCALE_MAX (00_scope.md R10). -/
def prescaleMax : Nat := 254
/-- F_FAST, the pad-upgrade threshold, inclusive (00_scope.md R10). -/
def fFast : Nat := 8000000
/-- The largest of MODES = 0, 1, 2, 3 (00_scope.md R10). -/
def modeMax : Nat := 3
/-- The lowest F_SYS at which a CONFIGURE is admitted (00_scope.md R12). -/
def fSysMin : Nat := 25000000
/-- The highest F_SYS at which a CONFIGURE is admitted (00_scope.md R12). -/
def fSysMax : Nat := 162559999
/-- CS_ACTIVE, low (00_scope.md R10). -/
def csActive : Bool := false
/-- CS_IDLE, high (00_scope.md R10). -/
def csIdle : Bool := true

/-- FRAME_SPI, the reference code of Motorola SPI (40_configure.md R107; PRESUMED in the spec, log 18). -/
def frameSpi : BitVec 2 := 0b00
/-- SIZE_8, the reference code of an 8-bit frame (40_configure.md R107; PRESUMED in the spec, log 18). -/
def size8 : BitVec 4 := 0b0111

/-- The reference depth of each queue (10_state.md R37; PRESUMED in the spec, log 16). Only the view of the status
flags RFF and TNF reads it. -/
def refDepth : Nat := 8

/-- The eight identification words at +0xFE0 to +0xFFC (10_state.md R35 names them; the values are the PL022
family's, PRESUMED, log 14). -/
def identWord (k : Fin 8) : Word :=
  match k with
  | 0 => 0x22
  | 1 => 0x10
  | 2 => 0x34
  | 3 => 0x00
  | 4 => 0x0D
  | 5 => 0xF0
  | 6 => 0x05
  | 7 => 0xB1

/-- The default PINMAP of unit 0 (92_eei_decisions.md D8; log 2). -/
def defaultRoles0 : RoleSets :=
  { rx := [0, 4, 16, 20], cs := [1, 5, 17, 21], sck := [2, 6, 18, 22], tx := [3, 7, 19, 23] }

/-- The default PINMAP of unit 1 (92_eei_decisions.md D8; log 2). -/
def defaultRoles1 : RoleSets :=
  { rx := [8, 12, 24, 28], cs := [9, 13, 25, 29], sck := [10, 14, 26], tx := [11, 15, 27] }

/-- The default of NPINS (00_scope.md R13; log 3). -/
def defaultNPins : Nat := 30

/-- The default platform: F_SYS of the spec's vectors (D7), PINMAP of D8, the reference bases of 10_state.md R26.
PRESUMED in the spec itself; no rule depends on it (log 2). -/
def defaultPlatform : Platform :=
  { fSys := 125000000
    pinmap := { x0 := defaultRoles0, x1 := defaultRoles1 }
    base := { x0 := 0x4003C000, x1 := 0x40040000 } }

end Config

end Sys2Proof
end

