-- ==== Sys2Proof/Syntax.lean ====
section
/-! DEFINITION. The four commands (00_scope.md R3, 30_encoding.md R79), one constructor for each row of the opcode
table, and the causes of an illegal command word (60_exceptions.md R161). -/

namespace Sys2Proof

/-- A command with its operands as 30_encoding.md R78 assembles them: plain unsigned fields. -/
inductive Instr where
  /-- CONFIGURE (40_configure.md R90): unit, the four pins, requested frequency in Hz, requested mode (raw),
  chip-select discipline (true is peripheral-automated). -/
  | configure (u : BitVec 4) (sck tx rx cs : Byte) (freqReq : BitVec 32) (mode : BitVec 8) (hwcs : Bool)
  /-- BEGIN (41_transaction.md R130). -/
  | beginTxn (u : BitVec 4)
  /-- TRANSFER of the data byte `d` (41_transaction.md R139). -/
  | transfer (u : BitVec 4) (d : Byte)
  /-- END (41_transaction.md R131). -/
  | endTxn (u : BitVec 4)
deriving DecidableEq, Repr

/-- The cause of an IllegalCommand fault (60_exceptions.md R161). -/
inductive Cause where
  /-- OP = 0x0 or 0x5 to 0xF. -/
  | reservedOpcode
  /-- A reserved bit of word 0 is 1. -/
  | reservedBits
  /-- UNIT >= 2 in BEGIN, TRANSFER or END. -/
  | unsupportedUnit
  /-- CONFIGURE with fewer than 3 words left in the stream. -/
  | truncatedCommand
deriving DecidableEq, Repr

/-- The pseudo-command `TXN u, d1, ..., dk` (30_encoding.md R85): one BEGIN, the transfers, one END. -/
def Instr.txn (u : BitVec 4) (ds : List Byte) : List Instr :=
  .beginTxn u :: (ds.map (Instr.transfer u) ++ [.endTxn u])

end Sys2Proof
end

