-- ==== Sys2Proof/Machine/State.lean ====
section
/-! DEFINITION. The state of the block (10_state.md R20 to R45), its faults and refusals, and the state after reset
(70_reset_and_hazards.md R181). -/

namespace Sys2Proof.Machine

/-- The binding fields a successful CONFIGURE writes together (10_state.md R22 to R25). Before the first one they are
unwritten (R44); what they hold then is the model's choice and no rule reads it (log 4). -/
structure Binding where
  /-- The clamped frequency in Hz (R22). -/
  freq : BitVec 32
  /-- The mode, 0 to 3 (R23). -/
  mode : BitVec 2
  /-- The chip-select discipline, true is peripheral-automated (R24). -/
  hwcs : Bool
  /-- The clock pin (R25). -/
  pinSck : Byte
  /-- The data-out pin (R25). -/
  pinTx : Byte
  /-- The data-in pin (R25). -/
  pinRx : Byte
  /-- The chip-select pin (R25). -/
  pinCs : Byte
deriving DecidableEq, Repr

/-- `CFG[u]` (10_state.md R21 to R25). -/
structure UnitCfg where
  /-- R21. The binding fields are unwritten exactly while it is false (R44). -/
  configured : Bool
  /-- R22 to R25, read only through `State.binding?`. -/
  binding : Binding
deriving DecidableEq, Repr

/-- `REG[u].CTRL`, the primary control register by its named fields (10_state.md R30). -/
structure Ctrl where
  /-- Reference bits [31:16], not written. -/
  reserved : BitVec 16
  /-- SCALE_RATE, reference bits [15:8]. -/
  scaleRate : BitVec 8
  /-- CPHA, reference bit 7. -/
  cpha : Bool
  /-- CPOL, reference bit 6. -/
  cpol : Bool
  /-- FRF, reference bits [5:4]. -/
  frf : BitVec 2
  /-- DSS, reference bits [3:0]. -/
  dss : BitVec 4
deriving DecidableEq, Repr

/-- `REG[u].CTRL1` (10_state.md R31). -/
structure Ctrl1 where
  /-- LBM, reference bit 0. -/
  lbm : Bool
  /-- ENABLE, reference bit 1. -/
  enable : Bool
  /-- MS, reference bit 2; false is master. -/
  ms : Bool
  /-- SOD, reference bit 3. -/
  sod : Bool
deriving DecidableEq, Repr

/-- `REG[u]` (10_state.md R30 to R35). DATA (R34) is a port to the queues of `PER[u]` and stores nothing itself; the
status flags other than BUSY are views of the queues (Machine/Flags.lean). -/
structure UnitRegs where
  /-- R30. -/
  ctrl : Ctrl
  /-- R31. -/
  ctrl1 : Ctrl1
  /-- R32. -/
  prescale : BitVec 8
  /-- STATUS.BUSY (R33). -/
  busy : Bool
  /-- SSPIMSC, the interrupt mask; the block never accesses it (R35). -/
  imsc : Word
  /-- SSPRIS; never accessed (R35). -/
  ris : Word
  /-- SSPMIS; never accessed (R35). -/
  mis : Word
  /-- SSPICR; never accessed (R35). -/
  icr : Word
  /-- SSPDMACR, the DMA enables; never accessed (R35). -/
  dmacr : Word
deriving DecidableEq, Repr

/-- `PER[u]`, the hidden peripheral state (10_state.md R37). -/
structure UnitPer where
  /-- TXQ, oldest first. -/
  txq : List Byte
  /-- RXQ, oldest first. -/
  rxq : List Byte
  /-- SHIFT, the frame in flight. -/
  shift : Option Byte
deriving DecidableEq, Repr

/-- Where a pin is routed (10_state.md R39). -/
inductive PinFunc where
  | none
  | spi
  | sio
deriving DecidableEq, Repr

/-- Drive strength (10_state.md R39). -/
inductive Drive where
  | default
  | high
deriving DecidableEq, Repr

/-- Slew rate (10_state.md R39). -/
inductive Slew where
  | default
  | fast
deriving DecidableEq, Repr

/-- `PIN[p]` (10_state.md R39). -/
structure PinState where
  /-- The function the pin is routed to. -/
  func : PinFunc
  /-- Output enable when func = SIO. -/
  oe : Bool
  /-- Driven level when func = SIO and oe = 1. -/
  out : Bool
  /-- Drive strength. -/
  drive : Drive
  /-- Slew rate. -/
  slew : Slew
deriving DecidableEq, Repr

/-- An event of the bus history (10_state.md R38). -/
inductive BusEvent where
  /-- The block drove a software chip-select pin. -/
  | csDrive (u : UnitId) (p : Byte) (level : Bool)
  /-- The peripheral began to shift byte d. -/
  | frameStart (u : UnitId) (d : Byte)
  /-- A completed exchange. -/
  | frame (u : UnitId) (dOut dIn : Byte) (csLevel : Bool)
  /-- The block raised the drive and slew of pin p. -/
  | padUpgrade (p : Byte)
  /-- The block routed pin p to a function. -/
  | mux (p : Byte) (func : PinFunc)
deriving DecidableEq, Repr

/-- A response (10_state.md R42). -/
inductive Resp where
  /-- The result of CONFIGURE. -/
  | ok (b : Bool)
  /-- The result of TRANSFER. -/
  | byte (r : Byte)
deriving DecidableEq, Repr

/-- The controller phase (10_state.md R29). -/
inductive Phase where
  | ready
  | poll (u : UnitId) (d : Byte)
  | collect (u : UnitId)
deriving DecidableEq, Repr

/-- The record of an IllegalCommand fault (10_state.md R43, 60_exceptions.md R161). -/
structure FaultRecord where
  /-- The command pointer. -/
  cp : Nat
  /-- Word 0. -/
  word : Word
  /-- The cause. -/
  cause : Cause
deriving DecidableEq, Repr

/-- The record of a DivisorOutOfRange refusal (10_state.md R43, 60_exceptions.md R163). -/
structure RefusalRecord where
  /-- The command pointer. -/
  cp : Nat
deriving DecidableEq, Repr

/-- The state of the block (10_state.md R20), with the parameters and the command stream, which no step writes, and
two counters of the model's own. -/
structure State where
  /-- F_SYS, PINMAP and BASE (00_scope.md R11, R12; 10_state.md R26). -/
  plat : Platform
  /-- CMD[0..L-1] (10_state.md R41). -/
  cmd : List Word
  /-- CFG[0..1] (R21 to R25). -/
  cfg : Units UnitCfg
  /-- REG[0..1] (R30 to R35). -/
  reg : Units UnitRegs
  /-- PER[0..1] (R37). -/
  per : Units UnitPer
  /-- PIN[0..NPINS-1] (R39); NPINS (00_scope.md R13) is its length. -/
  pins : List PinState
  /-- The command pointer (R28). -/
  cp : Nat
  /-- The controller phase (R29). -/
  phase : Phase
  /-- The response stream (R42). -/
  resp : List Resp
  /-- The bus history (R38). -/
  bus : List BusEvent
  /-- The sticky fault mark (R43). -/
  fault : Option FaultRecord
  /-- The refusal mark (R43). -/
  refused : Option RefusalRecord
  /-- The model's own: how many contested scheduling choices were taken (log 5). -/
  turns : Nat
  /-- The model's own: how many free bytes were drawn (log 6). -/
  draws : Nat
deriving DecidableEq, Repr

/-- Why a step stops with a fault. All are safe: the machine stops where no rule gives a next step. -/
inductive Fault where
  /-- Raised by the step of a state whose fault mark is set and in which no peripheral moves: "A model must not give a
  faulted or refused state a next controller step" (60_exceptions.md R169). Safe. -/
  | illegalCommand (record : FaultRecord)
  /-- Raised by the step of a final state (70_reset_and_hazards.md R186): the run has ended, which is no error (log 10).
  Safe. -/
  | endOfRun
  /-- Raised by the step of a state that is not final and in which no agent can move, the "stuck" treatment of
  93_implementation_defined.md; no run from reset reaches one (log 10). Safe. -/
  | stuck
  /-- Raised where cp lies past the end of the stream; no run from reset reaches such a state (log 10). Safe. -/
  | noCommandWord
  /-- Raised by BEGIN or END where the bound chip-select pin is at or above NPINS; no run from reset reaches such a
  state (log 21). Safe. -/
  | noSuchPin (p : Byte)
deriving DecidableEq, Repr

/-- Why a step is refused. -/
inductive Refusal where
  /-- An instruction without a meaning; no arm of exec answers it. Safe. -/
  | notModelled (mnemonic : String)
  /-- Raised by the step of a state whose refusal mark is set and in which no peripheral moves (60_exceptions.md R163,
  R169). Safe. -/
  | divisorOutOfRange (record : RefusalRecord)
deriving DecidableEq, Repr

/-- What the unwritten binding fields hold at reset: zero, a DESIGN CHOICE of the model that no rule reads (log 4). -/
def Binding.reset : Binding :=
  { freq := 0, mode := 0, hwcs := false, pinSck := 0, pinTx := 0, pinRx := 0, pinCs := 0 }

/-- CFG[u] at reset (R181): not configured, so the binding is unwritten (R44). -/
def UnitCfg.reset : UnitCfg := { configured := false, binding := Binding.reset }

/-- REG[u] at reset (R181, R30 to R33; the last five are R35's registers, log 14). -/
def UnitRegs.reset : UnitRegs :=
  { ctrl := { reserved := 0, scaleRate := 0, cpha := false, cpol := false, frf := 0, dss := 0 }
    ctrl1 := { lbm := false, enable := false, ms := false, sod := false }
    prescale := 0
    busy := false
    imsc := 0
    ris := 0x8
    mis := 0
    icr := 0
    dmacr := 0 }

/-- PER[u] at reset (R181). -/
def UnitPer.reset : UnitPer := { txq := [], rxq := [], shift := none }

/-- PIN[p] at reset (R181). -/
def PinState.reset : PinState := { func := .none, oe := false, out := false, drive := .default, slew := .default }

/-- The machine right after reset (70_reset_and_hazards.md R180, R181), with the default parameters (log 2, log 3) and
no command stream yet (log 1). -/
def State.reset : State :=
  { plat := Config.defaultPlatform
    cmd := []
    cfg := { x0 := UnitCfg.reset, x1 := UnitCfg.reset }
    reg := { x0 := UnitRegs.reset, x1 := UnitRegs.reset }
    per := { x0 := UnitPer.reset, x1 := UnitPer.reset }
    pins := List.replicate Config.defaultNPins PinState.reset
    cp := 0
    phase := .ready
    resp := []
    bus := []
    fault := none
    refused := none
    turns := 0
    draws := 0 }

end Sys2Proof.Machine
end

