-- ==== Sys2Proof/Machine/Flags.lean ====
section
/-! DEFINITION. The flags of the block (10_state.md R36) and the views of the peripheral registers as words of the
reference layout (R30 to R35): the status flags, the register words, and the masked write of CTRL's fields. -/

namespace Sys2Proof.Machine

/-! ## The status flags -/

/-- STATUS.TFE, transmit FIFO empty (10_state.md R33). -/
def UnitPer.tfe (p : UnitPer) : Bool := p.txq.isEmpty
/-- STATUS.TNF, transmit FIFO not full, at the reference depth (R33, R37; log 16). -/
def UnitPer.tnf (p : UnitPer) : Bool := decide (p.txq.length < Config.refDepth)
/-- STATUS.RNE, receive FIFO not empty (R33). -/
def UnitPer.rne (p : UnitPer) : Bool := !p.rxq.isEmpty
/-- STATUS.RFF, receive FIFO full, at the reference depth (R33, R37; log 16). -/
def UnitPer.rff (p : UnitPer) : Bool := decide (Config.refDepth ≤ p.rxq.length)

/-- STATUS as a word of the reference layout (R33). -/
def statusWord (r : UnitRegs) (p : UnitPer) : Word :=
  (0 : BitVec 27) ++ BitVec.ofBool r.busy ++ BitVec.ofBool p.rff ++ BitVec.ofBool p.rne ++ BitVec.ofBool p.tnf ++
    BitVec.ofBool p.tfe

/-! ## Registers as words of the reference layout -/

/-- CTRL as a word (R30). -/
def Ctrl.toWord (c : Ctrl) : Word :=
  c.reserved ++ c.scaleRate ++ BitVec.ofBool c.cpha ++ BitVec.ofBool c.cpol ++ c.frf ++ c.dss

/-- CTRL from a word (R30). -/
def Ctrl.ofWord (w : Word) : Ctrl :=
  { reserved := w.extractLsb' 16 16
    scaleRate := w.extractLsb' 8 8
    cpha := w.getLsbD 7
    cpol := w.getLsbD 6
    frf := w.extractLsb' 4 2
    dss := w.extractLsb' 0 4 }

/-- CTRL1 as a word (R31). -/
def Ctrl1.toWord (c : Ctrl1) : Word :=
  (0 : BitVec 28) ++ BitVec.ofBool c.sod ++ BitVec.ofBool c.ms ++ BitVec.ofBool c.enable ++ BitVec.ofBool c.lbm

/-- CTRL1 from a word (R31). -/
def Ctrl1.ofWord (w : Word) : Ctrl1 :=
  { lbm := w.getLsbD 0, enable := w.getLsbD 1, ms := w.getLsbD 2, sod := w.getLsbD 3 }

/-- The register access of a masked write (20_memory.md R66): "read the register, replace the named fields, and write
the result back". -/
def maskedWrite (old mask new : Word) : Word := (old &&& ~~~mask) ||| (new &&& mask)

/-- The bits of CTRL that CONFIGURE's one masked write covers: SCALE_RATE, CPHA, CPOL, FRF and DSS (40_configure.md
R107, 92_eei_decisions.md D19). -/
def ctrlMask : Word := 0x0000FFFF

/-- The bit of CTRL1 that CONFIGURE's masked set covers: ENABLE (40_configure.md R108). -/
def enableMask : Word := 0x00000002

/-- The write of the five CTRL fields (40_configure.md R107): other fields keep their values. -/
def Ctrl.program (c : Ctrl) (cpol cpha : Bool) (scaleRate : BitVec 8) : Ctrl :=
  { c with
    cpol := cpol
    cpha := cpha
    frf := Config.frameSpi
    dss := Config.size8
    scaleRate := scaleRate }

/-- The set of ENABLE (40_configure.md R108): other CTRL1 fields unchanged. -/
def Ctrl1.setEnable (c : Ctrl1) : Ctrl1 := { c with enable := true }

/-! ## The register window -/

/-- The registers of a unit's window (10_state.md R30 to R35). -/
inductive RegName where
  | ctrl
  | ctrl1
  | data
  | status
  | prescale
  | imsc
  | ris
  | mis
  | icr
  | dmacr
  | ident (k : Fin 8)
deriving DecidableEq, Repr

/-- The reference offset of a register (10_state.md R30 to R35; log 17). -/
def RegName.offset : RegName → Nat
  | .ctrl => 0x000
  | .ctrl1 => 0x004
  | .data => 0x008
  | .status => 0x00C
  | .prescale => 0x010
  | .imsc => 0x014
  | .ris => 0x018
  | .mis => 0x01C
  | .icr => 0x020
  | .dmacr => 0x024
  | .ident k => 0xFE0 + 4 * k.val

/-- The effective address BASE[u] + offset (20_memory.md R66). The spec gives no address width: 32 bits, and an addition
that wraps at that width, are a DESIGN CHOICE of the model (log 27); under `Platform.Wf` no sum wraps. -/
def effAddr (p : Platform) (u : UnitId) (r : RegName) : Word := p.base.get u + BitVec.ofNat 32 r.offset

/-- The word a side-effect-free read of a register of unit `u` gives in the reference layout (20_memory.md R55). DATA
has none: reading it pops a queue (10_state.md R34). -/
def State.regWord (s : State) (u : UnitId) : RegName → Option Word
  | .ctrl => some (s.reg.get u).ctrl.toWord
  | .ctrl1 => some (s.reg.get u).ctrl1.toWord
  | .data => none
  | .status => some (statusWord (s.reg.get u) (s.per.get u))
  | .prescale => some (zext32 (s.reg.get u).prescale)
  | .imsc => some (s.reg.get u).imsc
  | .ris => some (s.reg.get u).ris
  | .mis => some (s.reg.get u).mis
  | .icr => some (s.reg.get u).icr
  | .dmacr => some (s.reg.get u).dmacr
  | .ident k => some (Config.identWord k)

end Sys2Proof.Machine
end

