-- ==== Sys2Proof/WellFormed.lean ====
section
/-! DEFINITION. Which commands an encoding spells (30_encoding.md R80), and which platforms the spec admits
(00_scope.md R11 to R13, 20_memory.md R51, R60). -/

namespace Sys2Proof

/-- BEGIN, TRANSFER and END name unit 0 or 1; CONFIGURE may name any of the 16 unit values, and every other operand
value is legal (30_encoding.md R74, R75, R80). -/
def Instr.wellFormed : Instr → Bool
  | .configure _ _ _ _ _ _ _ _ => true
  | .beginTxn u => decide (u.toNat < 2)
  | .transfer u _ => decide (u.toNat < 2)
  | .endTxn u => decide (u.toNat < 2)

/-- RoleOf of 00_scope.md R11 (c): the role of a pin number modulo four. -/
def roleOf (residue : Nat) : Option Role :=
  match residue with
  | 0 => some .rx
  | 1 => some .cs
  | 2 => some .sck
  | 3 => some .tx
  | _ => none

/-- The constraints on the parameters: F_SYS is positive (00_scope.md R12), NPINS is at most 256 and every mapped pin
is below it (R13), PINMAP meets R11 (a) to (d), and the two register windows of 4 KiB lie apart (20_memory.md R50, R51,
R60), and each base is a multiple of four (R54). -/
structure Platform.Wf (p : Platform) (nPins : Nat) : Prop where
  /-- R12: "a positive integer". -/
  fSys_pos : 0 < p.fSys
  /-- R13: "NPINS <= 256". -/
  nPins_le : nPins ≤ 256
  /-- R13: "Every pin in PINMAP is below NPINS". -/
  pin_lt : ∀ u r b, b ∈ (p.pinmap.get u).get r → b.toNat < nPins
  /-- R11 (a): the groups of the two units are disjoint. -/
  units_disjoint : ∀ r r' b, b ∈ (p.pinmap.get .unit0).get r → b ∉ (p.pinmap.get .unit1).get r'
  /-- R11 (b): within one unit the role sets are disjoint. -/
  roles_disjoint : ∀ u r r' b, b ∈ (p.pinmap.get u).get r → b ∈ (p.pinmap.get u).get r' → r = r'
  /-- R11 (c): the role of a pin is RoleOf of its number modulo four. -/
  role_of_residue : ∀ u r b, b ∈ (p.pinmap.get u).get r → roleOf (b.toNat % 4) = some r
  /-- R11 (d): pins 16, 17, 18 and 19 are in unit 0's group. -/
  unit0_pins : ∀ b ∈ [(16 : Byte), 17, 18, 19], ∃ r, b ∈ (p.pinmap.get .unit0).get r
  /-- R54: "Register accesses are aligned 32-bit accesses at BASE[u] + offset", and every offset is a multiple of 4. -/
  base_aligned : ∀ u, (p.base.get u).toNat % 4 = 0
  /-- R51, R60: the register windows, of 4 KiB each (R50), do not overlap or wrap. -/
  windows_apart :
    (p.base.get .unit0).toNat + 4096 ≤ 2 ^ 32 ∧ (p.base.get .unit1).toNat + 4096 ≤ 2 ^ 32 ∧
      ((p.base.get .unit0).toNat + 4096 ≤ (p.base.get .unit1).toNat ∨
        (p.base.get .unit1).toNat + 4096 ≤ (p.base.get .unit0).toNat)

end Sys2Proof
end

