-- ==== Sys2Proof/Decode.lean ====
section
/-! DEFINITION. The command encoding (30_encoding.md): the opcode map, the lengths, the decoder with its checks in the
order of R82, the encoder, the carriage of a stream as bytes (20_memory.md R52), and the host's numbering of a word. -/

namespace Sys2Proof

/-! ## The opcode map -/

/-- One row of the opcode map (30_encoding.md R79): a word 0 is this command's when `w0 &&& mask = pattern`. -/
structure OpcodeRow where
  /-- The mnemonic of the row. -/
  mnemonic : String
  /-- The bits of word 0 that are fixed. -/
  mask : Word
  /-- Their values, the column "match". -/
  pattern : Word
  /-- The length in words (R71). -/
  length : Nat
deriving DecidableEq, Repr

/-- The opcode map, the rows of R79 in its order. -/
def opcodeRows : List OpcodeRow :=
  [{ mnemonic := "CONFIGURE", mask := 0xFFFE000F, pattern := 0x00000001, length := 3 },
   { mnemonic := "BEGIN", mask := 0xFFFFFFEF, pattern := 0x00000002, length := 1 },
   { mnemonic := "TRANSFER", mask := 0xFFFF00EF, pattern := 0x00000003, length := 1 },
   { mnemonic := "END", mask := 0xFFFFFFEF, pattern := 0x00000004, length := 1 }]

/-- Word 0 has the fixed bits of the row. -/
def OpcodeRow.fits (row : OpcodeRow) (w0 : Word) : Bool := w0 &&& row.mask == row.pattern

/-- The length of a command in words (30_encoding.md R71). -/
def Instr.length : Instr → Nat
  | .configure _ _ _ _ _ _ _ _ => 3
  | .beginTxn _ => 1
  | .transfer _ _ => 1
  | .endTxn _ => 1

/-- The mnemonic of a command in the opcode map. -/
def Instr.mnemonic : Instr → String
  | .configure _ _ _ _ _ _ _ _ => "CONFIGURE"
  | .beginTxn _ => "BEGIN"
  | .transfer _ _ => "TRANSFER"
  | .endTxn _ => "END"

/-- The cause code of 60_exceptions.md R161. -/
def Cause.code : Cause → Nat
  | .reservedOpcode => 1
  | .reservedBits => 2
  | .unsupportedUnit => 3
  | .truncatedCommand => 4

/-! ## Fields of the command words -/

/-- `v[hi:lo]` with `len = hi - lo + 1` (00_scope.md R15). -/
def bits (v : Word) (lo len : Nat) : BitVec len := v.extractLsb' lo len

/-- OP, word 0 bits [3:0] (30_encoding.md R70). -/
def opField (w0 : Word) : BitVec 4 := bits w0 0 4
/-- UNIT, word 0 bits [7:4] (R70). -/
def unitField (w0 : Word) : BitVec 4 := bits w0 4 4
/-- MODE of format C and DATA of format T, word 0 bits [15:8] (R72, R77). -/
def byte1Field (w0 : Word) : BitVec 8 := bits w0 8 8
/-- HWCS of format C, word 0 bit 16 (R72). -/
def hwcsField (w0 : Word) : Bool := w0.getLsbD 16

/-! ## The decoder -/

/-- CONFIGURE from its three words (30_encoding.md R72 to R75, R78). -/
def decodeConfigure (w0 w1 w2 : Word) : Instr :=
  .configure (unitField w0) (bits w1 0 8) (bits w1 8 8) (bits w1 16 8) (bits w1 24 8) w2 (byte1Field w0) (hwcsField w0)

/-- The decoder of 30_encoding.md R82, its checks in that order, on word 0 and the words after it in the stream. It is
total: it answers a command or names the cause for which the word is illegal. `cp + 3 > L` of R82 is "fewer than two
words after word 0". -/
def decode (w0 : Word) (rest : List Word) : Except Cause Instr :=
  let op := opField w0
  let u := unitField w0
  if op = 0x1 then
    match rest with
    | w1 :: w2 :: _ =>
      if bits w0 17 15 ≠ 0 then .error .reservedBits else .ok (decodeConfigure w0 w1 w2)
    | _ => .error .truncatedCommand
  else if op = 0x2 ∨ op = 0x4 then
    if bits w0 8 24 ≠ 0 then .error .reservedBits
    else if 2 ≤ u.toNat then .error .unsupportedUnit
    else if op = 0x2 then .ok (.beginTxn u) else .ok (.endTxn u)
  else if op = 0x3 then
    if bits w0 16 16 ≠ 0 then .error .reservedBits
    else if 2 ≤ u.toNat then .error .unsupportedUnit
    else .ok (.transfer u (byte1Field w0))
  else .error .reservedOpcode

/-! ## The encoder -/

/-- Word 0 of a command, its fields from bit 31 down (30_encoding.md R72, R76, R77). -/
def encodeWord0 : Instr → Word
  | .configure u _ _ _ _ _ m hwcs => (0 : BitVec 15) ++ BitVec.ofBool hwcs ++ m ++ u ++ (0x1 : BitVec 4)
  | .beginTxn u => (0 : BitVec 24) ++ u ++ (0x2 : BitVec 4)
  | .transfer u d => (0 : BitVec 16) ++ d ++ u ++ (0x3 : BitVec 4)
  | .endTxn u => (0 : BitVec 24) ++ u ++ (0x4 : BitVec 4)

/-- The operand words after word 0: the pin word and the frequency word of CONFIGURE (30_encoding.md R73, R75). -/
def encodeOperands : Instr → List Word
  | .configure _ sck tx rx cs freqReq _ _ => [cs ++ rx ++ tx ++ sck, freqReq]
  | .beginTxn _ => []
  | .transfer _ _ => []
  | .endTxn _ => []

/-- The words of a command. -/
def encode (i : Instr) : List Word := encodeWord0 i :: encodeOperands i

/-! ## A stream carried as bytes -/

/-- One word from four bytes, little-endian: "byte 0 holds bits [7:0]" (20_memory.md R52). -/
def wordOfBytes (b0 b1 b2 b3 : Byte) : Word := b3 ++ b2 ++ b1 ++ b0

/-- The four bytes of a word, little-endian (20_memory.md R52). -/
def bytesOfWord (w : Word) : List Byte := [bits w 0 8, bits w 8 8, bits w 16 8, bits w 24 8]

/-- A command stream carried as bytes; none when the bytes are not whole words (20_memory.md R54: "The controller reads
command words whole"; log 24). -/
def wordsOfBytes : List Byte → Option (List Word)
  | [] => some []
  | b0 :: b1 :: b2 :: b3 :: rest => (wordsOfBytes rest).map (wordOfBytes b0 b1 b2 b3 :: ·)
  | _ => none

/-- The bytes of a command stream (20_memory.md R52). -/
def bytesOfWords (ws : List Word) : List Byte := ws.flatMap bytesOfWord

/-! ## The host's numbering -/

/-- The three words of an instruction given as one number: bit 0 is the least significant bit of the first word, a later
word's bits count on from it, and every bit from `nbits` up is 0. -/
def tableWords (nbits w : Nat) : List Word :=
  let v := w % 2 ^ nbits
  [BitVec.ofNat 32 v, BitVec.ofNat 32 (v / 2 ^ 32), BitVec.ofNat 32 (v / 2 ^ 64)]

/-- What the decoder reads from those words; none where it refuses them. -/
def decodeTableWord (nbits w : Nat) : Option Instr :=
  match tableWords nbits w with
  | [] => none
  | w0 :: rest => (decode w0 rest).toOption

end Sys2Proof
end

