-- ==== Sys2Proof/Machine/Operands.lean ====
section
/-! DEFINITION. The operand forms of the commands: the unit field, the pin-role validator (40_configure.md R91 to R94),
the frequency clamp (R96), the divisor derivation (R97 to R104), the mode decomposition (R107), and a response as a
word (30_encoding.md R83). -/

namespace Sys2Proof

/-- The unit a 4-bit UNIT field names; none for 2 to 15 (00_scope.md R2, 30_encoding.md R80). -/
def unitOf (u : BitVec 4) : Option UnitId :=
  if u = 0 then some .unit0 else if u = 1 then some .unit1 else none

/-- The UNIT field that names a unit. -/
def UnitId.field : UnitId → BitVec 4
  | .unit0 => 0
  | .unit1 => 1

/-- The other unit. -/
def UnitId.other : UnitId → UnitId
  | .unit0 => .unit1
  | .unit1 => .unit0

namespace Machine

/-! ## The pin-role validator -/

/-- NPINS (00_scope.md R13; log 3). -/
def State.nPins (s : State) : Nat := s.pins.length

/-- `InRole(u, r, p)` (40_configure.md R93). "A pin number at or above NPINS is in no PINMAP set and so fails". -/
def State.inRole (s : State) (u : UnitId) (r : Role) (p : Byte) : Bool :=
  decide (p ∈ (s.plat.pinmap.get u).get r) && decide (p.toNat < s.nPins)

/-- The validator, a pure function (40_configure.md R94). -/
def State.valid (s : State) (u : BitVec 4) (sck tx rx cs : Byte) (mode : BitVec 8) : Bool :=
  match unitOf u with
  | none => false
  | some k =>
    decide (mode.toNat ≤ Config.modeMax) &&
      (s.inRole k .sck sck && s.inRole k .tx tx && s.inRole k .rx rx && s.inRole k .cs cs)

/-! ## The frequency clamp and the divisors, on naturals (40_configure.md R114) -/

/-- `clamp(x, lo, hi)` (00_scope.md R15). -/
def clamp (x lo hi : Nat) : Nat := min (max x lo) hi

/-- The clamped frequency f (40_configure.md R96). -/
def clampFreq (freqReq : BitVec 32) : Nat := clamp freqReq.toNat Config.fMin Config.fMax

/-- The raw ratio N (40_configure.md R97). -/
def rawRatio (fSys f : Nat) : Nat := fSys / f + 1

/-- The coarse factor S, ceil(N / 254) (40_configure.md R98, R114). -/
def coarseFactor (n : Nat) : Nat := (n + 253) / Config.prescaleMax

/-- The fine value before rounding P0 (40_configure.md R99). -/
def fineBeforeRounding (n s : Nat) : Nat := if s = 1 then n else n / s

/-- `x & ~1` (00_scope.md R15). -/
def clearBit0 (x : Nat) : Nat := x - x % 2

/-- The fine divider P (40_configure.md R100). -/
def fineDivider (n s : Nat) : Nat := clearBit0 (fineBeforeRounding n s)

/-- The two dividers of a frequency: the coarse factor S and the fine divider P. -/
structure Divisors where
  /-- S. -/
  coarse : Nat
  /-- P. -/
  fine : Nat
deriving DecidableEq, Repr

/-- The derivation in one pass (40_configure.md R97 to R100). -/
def divisorsFor (fSys f : Nat) : Divisors :=
  let n := rawRatio fSys f
  let s := coarseFactor n
  { coarse := s, fine := fineDivider n s }

/-- The admission of R104: not (P < 2 or S - 1 > 255). -/
def Divisors.admitted (d : Divisors) : Bool := !(decide (d.fine < 2) || decide (d.coarse - 1 > 255))

/-- F_SYS lies in the range in which "the model admits a CONFIGURE" (00_scope.md R12). -/
def clockInRange (fSys : Nat) : Bool := decide (Config.fSysMin ≤ fSys) && decide (fSys ≤ Config.fSysMax)

/-- A valid CONFIGURE at clamped frequency f is admitted: F_SYS is in its range (00_scope.md R12, 92_eei_decisions.md D7)
and the dividers fit (40_configure.md R104). That both must hold is log 11. -/
def configureAdmitted (fSys f : Nat) : Bool := clockInRange fSys && (divisorsFor fSys f).admitted

/-- The SCALE_RATE value S - 1 (40_configure.md R101, 90_conflicts.md C1). -/
def Divisors.scaleRate (d : Divisors) : BitVec 8 := BitVec.ofNat 8 (d.coarse - 1)

/-- The PRESCALE value P (40_configure.md R101, 90_conflicts.md C1). -/
def Divisors.prescale (d : Divisors) : BitVec 8 := BitVec.ofNat 8 d.fine

/-! ## The mode -/

/-- The mode of a valid CONFIGURE as the 2-bit field of 10_state.md R23. -/
def modeField (mode : BitVec 8) : BitVec 2 := mode.extractLsb' 0 2

/-- CPOL = m[1] (40_configure.md R107). -/
def cpolOf (mode : BitVec 2) : Bool := mode.getLsbD 1

/-- CPHA = m[0] (40_configure.md R107). -/
def cphaOf (mode : BitVec 2) : Bool := mode.getLsbD 0

/-! ## Responses -/

/-- A response as the 32-bit word of 30_encoding.md R83. -/
def Resp.word : Resp → Word
  | .ok b => (BitVec.ofBool b).setWidth 32
  | .byte r => zext32 r

end Machine

end Sys2Proof
end

