-- ==== Sys2Proof/Machine/Ops.lean ====
section
/-! DEFINITION. The named operations over the state: the streams and the command pointer, the per-unit registers and
queues, the pin primitives (20_memory.md R56), the entry into the two sticky marks (60_exceptions.md R161, R163), and
the chip-select line (10_state.md R40). -/

namespace Sys2Proof.Machine

/-! ## Streams, pointer and phase -/

/-- `emit E` (00_scope.md R16). -/
def State.emit (s : State) (e : BusEvent) : State := { s with bus := s.bus ++ [e] }

/-- `respond(v)` (00_scope.md R16). -/
def State.respond (s : State) (r : Resp) : State := { s with resp := s.resp ++ [r] }

/-- `cp <- cp + n` (00_scope.md R16). -/
def State.advance (s : State) (n : Nat) : State := { s with cp := s.cp + n }

/-- `phase <- p` (10_state.md R29). -/
def State.setPhase (s : State) (p : Phase) : State := { s with phase := p }

/-! ## Per-unit registers and queues -/

/-- A write of CFG[u]. -/
def State.setCfg (s : State) (u : UnitId) (c : UnitCfg) : State := { s with cfg := s.cfg.set u c }

/-- A write of REG[u]. -/
def State.setReg (s : State) (u : UnitId) (r : UnitRegs) : State := { s with reg := s.reg.set u r }

/-- A change of PER[u]. -/
def State.setPer (s : State) (u : UnitId) (p : UnitPer) : State := { s with per := s.per.set u p }

/-- `REG[u].STATUS.BUSY <- b` (41_transaction.md R134, R137). -/
def State.setBusy (s : State) (u : UnitId) (b : Bool) : State :=
  s.setReg u { s.reg.get u with busy := b }

/-- `MemWrite(BASE[u] + DATA, 4, w)` (20_memory.md R66, 10_state.md R34): bits [7:0] are pushed onto TXQ. -/
def State.writeData (s : State) (u : UnitId) (w : Word) : State :=
  s.setPer u { s.per.get u with txq := (s.per.get u).txq ++ [w.setWidth 8] }

/-- A byte drawn from the environment (00_scope.md R16, 41_transaction.md R140). -/
def State.drawn (s : State) : State := { s with draws := s.draws + 1 }

/-- `MemRead(BASE[u] + DATA, 4)[7:0]` (20_memory.md R66, 10_state.md R34): the head of RXQ is popped and returned. The
read of an empty queue, which no run reaches, returns a free byte (log 8). -/
def State.readData (env : Env) (s : State) (u : UnitId) : Byte × State :=
  match (s.per.get u).rxq with
  | r :: rest => (r, s.setPer u { s.per.get u with rxq := rest })
  | [] => (env.byte s.draws, s.drawn)

/-! ## Pins -/

/-- `PIN[p]`; none at or above NPINS. -/
def State.pin? (s : State) (p : Byte) : Option PinState := s.pins[p.toNat]?

/-- A write of attributes of `PIN[p]`. Its callers name pins below NPINS: CONFIGURE by its validator, BEGIN and END by
their own check. -/
def State.modifyPin (s : State) (p : Byte) (f : PinState → PinState) : State :=
  { s with pins := s.pins.modify p.toNat f }

/-- `PIN[p].func <- func; emit Mux(p, func)` (40_configure.md R105, R106). -/
def State.routePin (s : State) (p : Byte) (func : PinFunc) : State :=
  (s.modifyPin p fun x => { x with func := func }).emit (.mux p func)

/-- `PIN[p].out <- level; emit CsDrive(u, p, level)` (40_configure.md R106, 41_transaction.md R130, R131). -/
def State.driveCs (s : State) (u : UnitId) (p : Byte) (level : Bool) : State :=
  (s.modifyPin p fun x => { x with out := level }).emit (.csDrive u p level)

/-- `PIN[p].oe <- 1; emit CsDrive(u, p, PIN[p].out)`: the event records the level shown as the output turns on
(40_configure.md R106). -/
def State.enableCsOutput (s : State) (u : UnitId) (p : Byte) : State :=
  match s.pin? p with
  | some x => (s.modifyPin p fun x => { x with oe := true }).emit (.csDrive u p x.out)
  | none => s

/-- `PIN[p].drive <- HIGH; PIN[p].slew <- FAST; emit PadUpgrade(p)` (40_configure.md R109). -/
def State.upgradePad (s : State) (p : Byte) : State :=
  (s.modifyPin p fun x => { x with drive := .high, slew := .fast }).emit (.padUpgrade p)

/-! ## The sticky marks: the block's only exception entries -/

/-- `raise IllegalCommand(cp, W0, cause)` (60_exceptions.md R161): "Its entry is the single write" of the mark (R168).
There is no return from it (R169). -/
def State.raiseIllegal (s : State) (w0 : Word) (cause : Cause) : State :=
  { s with fault := some { cp := s.cp, word := w0, cause := cause } }

/-- `refuse DivisorOutOfRange(cp)` (60_exceptions.md R163). There is no return from it (R169). -/
def State.refuseDivisor (s : State) : State :=
  { s with refused := some { cp := s.cp } }

/-! ## The binding -/

/-- The binding fields as every rule reads them (10_state.md R44): an unwritten binding gives no value, and "every read of
those fields is guarded by CFG[u].configured = 1". -/
def State.binding? (s : State) (u : UnitId) : Option Binding :=
  if (s.cfg.get u).configured then some (s.cfg.get u).binding else none

/-! ## The chip-select line -/

/-- CSLINE(u) where 10_state.md R40 defines it; none where it is undefined. -/
def State.csLine? (s : State) (u : UnitId) : Option Bool :=
  match s.binding? u with
  | none => none
  | some b =>
    match s.pin? b.pinCs with
    | none => none
    | some x =>
      if b.hwcs then
        if x.func = .spi then some (s.per.get u).shift.isNone else none
      else
        if x.func = .sio ∧ x.oe = true then some x.out else none

/-- CSLINE(u), a free level where it is undefined (log 7). -/
def State.csLine (env : Env) (s : State) (u : UnitId) : Bool := (s.csLine? u).getD (env.line s.draws)

end Sys2Proof.Machine
end

