-- ==== Sys2Proof/Machine/Configure.lean ====
section
/-! DEFINITION. CONFIGURE (40_configure.md): the commit in its steps R105 to R109 and the command R110. -/

namespace Sys2Proof.Machine

/-- The operands a commit works with (40_configure.md section 5): a valid CONFIGURE's, the clamped frequency and the
derived dividers. -/
structure CommitArgs where
  /-- The unit. -/
  unit : UnitId
  /-- The clock pin. -/
  sck : Byte
  /-- The data-out pin. -/
  tx : Byte
  /-- The data-in pin. -/
  rx : Byte
  /-- The chip-select pin. -/
  cs : Byte
  /-- The mode as the 2-bit field. -/
  mode : BitVec 2
  /-- The chip-select discipline. -/
  hwcs : Bool
  /-- The clamped frequency f. -/
  freq : Nat
  /-- S and P. -/
  div : Divisors
deriving DecidableEq, Repr

/-- Commit step 1, data-path pin routing (40_configure.md R105). -/
def commitDataPins (a : CommitArgs) (s : State) : State :=
  ((s.routePin a.sck .spi).routePin a.tx .spi).routePin a.rx .spi

/-- Commit step 2, the chip-select pin (40_configure.md R106). -/
def commitCsPin (a : CommitArgs) (s : State) : State :=
  if a.hwcs then s.routePin a.cs .spi
  else ((s.routePin a.cs .sio).enableCsOutput a.unit a.cs).driveCs a.unit a.cs Config.csIdle

/-- Commit steps 3 to 5, the mode and divider registers (40_configure.md R107, R101). -/
def commitRegisters (a : CommitArgs) (s : State) : State :=
  s.setReg a.unit
    { s.reg.get a.unit with
      ctrl := (s.reg.get a.unit).ctrl.program (cpolOf a.mode) (cphaOf a.mode) a.div.scaleRate
      prescale := a.div.prescale }

/-- Commit step 6, the peripheral-enable bit (40_configure.md R108). -/
def commitEnable (a : CommitArgs) (s : State) : State :=
  s.setReg a.unit { s.reg.get a.unit with ctrl1 := (s.reg.get a.unit).ctrl1.setEnable }

/-- Commit step 7, high-speed pads (40_configure.md R109): the clock and data-out pins when f is at or above 8 MHz, and
no pad write below. -/
def commitPads (a : CommitArgs) (s : State) : State :=
  if Config.fFast ≤ a.freq then (s.upgradePad a.sck).upgradePad a.tx else s

/-- The binding fields and the configured flag (40_configure.md R110). -/
def commitBinding (a : CommitArgs) (s : State) : State :=
  s.setCfg a.unit
    { configured := true
      binding :=
        { freq := BitVec.ofNat 32 a.freq
          mode := a.mode
          hwcs := a.hwcs
          pinSck := a.sck
          pinTx := a.tx
          pinRx := a.rx
          pinCs := a.cs } }

/-- The commit, its steps in the order in which the writes take effect (40_configure.md R105 to R110). -/
def commit (a : CommitArgs) (s : State) : State :=
  commitBinding a (commitPads a (commitEnable a (commitRegisters a (commitCsPin a (commitDataPins a s)))))

/-- `respond(Ok(b)); cp <- cp + 3`, the end of a CONFIGURE that completes (40_configure.md R110, R111). -/
def finishConfigure (b : Bool) (s : State) : State := (s.respond (.ok b)).advance 3

/-- CONFIGURE (40_configure.md R110): rejection with Ok(false) first (R111, 60_exceptions.md R167 (3)), then the
refusal of dividers that do not fit (R104) and of every F_SYS outside its admitted range (00_scope.md R12; log 11), then
the commit. -/
def execConfigure (u : BitVec 4) (sck tx rx cs : Byte) (freqReq : BitVec 32) (mode : BitVec 8) (hwcs : Bool)
    (s : State) : Host.Outcome State Fault Refusal :=
  match unitOf u with
  | none => .next (finishConfigure false s)
  | some k =>
    if s.valid u sck tx rx cs mode then
      let f := clampFreq freqReq
      let d := divisorsFor s.plat.fSys f
      if configureAdmitted s.plat.fSys f then
        .next (finishConfigure true
          (commit { unit := k, sck := sck, tx := tx, rx := rx, cs := cs, mode := modeField mode, hwcs := hwcs,
                    freq := f, div := d } s))
      else .next s.refuseDivisor
    else .next (finishConfigure false s)

end Sys2Proof.Machine
end

