-- ==== Sys2Proof/Machine/Transaction.lean ====
section
/-! DEFINITION. BEGIN, END and the first step of TRANSFER (41_transaction.md R130 to R134, R139), and the controller's
poll and collect steps (R135, R138). -/

namespace Sys2Proof.Machine

/-- What BEGIN and END share (41_transaction.md R130, R131): on a configured unit of the software-toggled discipline the
chip-select pin is driven to a level, otherwise nothing changes; then cp advances by one word. -/
def toggleChipSelect (k : UnitId) (level : Bool) (s : State) : Host.Outcome State Fault Refusal :=
  match s.binding? k with
  | none => .next (s.advance 1)
  | some b =>
    if b.hwcs then .next (s.advance 1)
    else if b.pinCs.toNat < s.nPins then .next ((s.driveCs k b.pinCs level).advance 1)
    else .fault (.noSuchPin b.pinCs)

/-- BEGIN (41_transaction.md R130). A UNIT of 2 or more, which no decoded BEGIN has, is illegal (30_encoding.md R81 (c);
log 12). -/
def execBegin (u : BitVec 4) (s : State) : Host.Outcome State Fault Refusal :=
  match unitOf u with
  | some k => toggleChipSelect k Config.csActive s
  | none => .next (s.raiseIllegal (encodeWord0 (.beginTxn u)) .unsupportedUnit)

/-- END (41_transaction.md R131). A UNIT of 2 or more is illegal as in BEGIN (log 12). -/
def execEnd (u : BitVec 4) (s : State) : Host.Outcome State Fault Refusal :=
  match unitOf u with
  | some k => toggleChipSelect k Config.csIdle s
  | none => .next (s.raiseIllegal (encodeWord0 (.endTxn u)) .unsupportedUnit)

/-- The issue step (41_transaction.md R134): the byte goes onto TXQ, BUSY rises in the same step, and the controller
polls. cp does not move before the collect step (10_state.md R28). -/
def issue (k : UnitId) (d : Byte) (s : State) : State :=
  ((s.writeData k (zext32 d)).setBusy k true).setPhase (.poll k d)

/-- TRANSFER (41_transaction.md R139): on an unconfigured unit Byte(0x00) at once with no access (R132), on a configured
one the issue step (R133, R134). A UNIT of 2 or more is illegal as in BEGIN (log 12). -/
def execTransfer (u : BitVec 4) (d : Byte) (s : State) : Host.Outcome State Fault Refusal :=
  match unitOf u with
  | some k =>
    if (s.cfg.get k).configured then .next (issue k d s)
    else .next ((s.respond (.byte 0x00)).advance 1)
  | none => .next (s.raiseIllegal (encodeWord0 (.transfer u d)) .unsupportedUnit)

/-- The poll step (41_transaction.md R135): BUSY is read, and the phase moves on when it is 0. -/
def pollStep (k : UnitId) (s : State) : State :=
  if (s.reg.get k).busy then s else s.setPhase (.collect k)

/-- The collect step (41_transaction.md R138). -/
def collectStep (env : Env) (k : UnitId) (s : State) : State :=
  (((s.readData env k).2.respond (.byte (s.readData env k).1)).advance 1).setPhase .ready

end Sys2Proof.Machine
end

