-- ==== Sys2Proof/Machine/Dispatch.lean ====
section
/-! DEFINITION. One arm for each command: its meaning at READY, with cp at the command's word 0. -/

namespace Sys2Proof.Machine

def exec (i : Instr) (s : State) : Host.Outcome State Fault Refusal :=
  match i with
  | .configure u sck tx rx cs freqReq mode hwcs => Sys2Proof.Machine.execConfigure u sck tx rx cs freqReq mode hwcs s
  | .beginTxn u => Sys2Proof.Machine.execBegin u s
  | .transfer u d => Sys2Proof.Machine.execTransfer u d s
  | .endTxn u => Sys2Proof.Machine.execEnd u s

end Sys2Proof.Machine
end

