-- ==== Sys2Proof/Machine/Fetch.lean ====
section
/-! DEFINITION. Reading the command at cp (30_encoding.md R70, R82), the controller's step in READY, and placing words
in the command stream (10_state.md R41). -/

namespace Sys2Proof.Machine

/-- The words of the stream from cp on, as word 0 and the words after it; none at or past the end. -/
def State.fetch (s : State) : Option (Word × List Word) :=
  match s.cmd.drop s.cp with
  | [] => none
  | w0 :: rest => some (w0, rest)

/-- The controller's step in READY (30_encoding.md R82): an illegal word raises the fault mark, any other runs the
command it decodes to. -/
def readyStep (s : State) : Host.Outcome State Fault Refusal :=
  match s.fetch with
  | none => .fault .noCommandWord
  | some (w0, rest) =>
    match decode w0 rest with
    | .error cause => .next (s.raiseIllegal w0 cause)
    | .ok i => exec i s

/-- The command stream as the caller supplies it before a run (10_state.md R41; log 1). -/
def State.loadStream (s : State) (ws : List Word) : State := { s with cmd := ws }

/-- A list with `new` placed from index `at_` on, filled with zeros up to it where it is shorter. -/
def placeWords (at_ : Nat) (new old : List Word) : List Word :=
  (old ++ List.replicate (at_ - old.length) 0).take at_ ++ new ++ old.drop (at_ + new.length)

/-- PER[u] with nothing queued to send and no frame in flight. -/
def UnitPer.idle (p : UnitPer) : UnitPer := { p with txq := [], shift := none }

/-- The state in which the very next step decodes a command: READY, no mark, no frame pending. A state in READY that a
run reaches without a mark is already so. -/
def State.decoding (s : State) : State :=
  { s with
    phase := .ready
    fault := none
    refused := none
    per := { x0 := s.per.x0.idle, x1 := s.per.x1.idle }
    reg := { x0 := { s.reg.x0 with busy := false }, x1 := { s.reg.x1 with busy := false } } }

end Sys2Proof.Machine
end

