-- ==== Sys2Proof/Machine/Peripheral.lean ====
section
/-! DEFINITION. The peripheral agent of a unit (41_transaction.md R136, R137). -/

namespace Sys2Proof.Machine

/-- The frame-start step is enabled (41_transaction.md R136). -/
def frameStartEnabled (k : UnitId) (s : State) : Bool :=
  !(s.per.get k).txq.isEmpty && (s.per.get k).shift.isNone && (s.reg.get k).ctrl1.enable

/-- The frame-end step is enabled (41_transaction.md R137). -/
def frameEndEnabled (k : UnitId) (s : State) : Bool := (s.per.get k).shift.isSome

/-- The frame-start step (41_transaction.md R136): the head of TXQ goes into SHIFT. -/
def frameStart (k : UnitId) (s : State) : State :=
  match (s.per.get k).txq with
  | [] => s
  | d :: rest => (s.setPer k { s.per.get k with txq := rest, shift := some d }).emit (.frameStart k d)

/-- The frame-end step (41_transaction.md R137): a byte is drawn and pushed onto RXQ, BUSY falls, and the exchange is
recorded with the chip-select level of the frame. -/
def frameEnd (env : Env) (k : UnitId) (s : State) : State :=
  match (s.per.get k).shift with
  | none => s
  | some d =>
    let r := env.byte s.draws
    let level := s.csLine env k
    (((s.setPer k { s.per.get k with rxq := (s.per.get k).rxq ++ [r], shift := none }).setBusy k false).emit
      (.frame k d r level)).drawn

/-- The step of the peripheral agent: the frame in flight ends, or the next one starts. The two are never enabled
together. -/
def peripheralStep (env : Env) (k : UnitId) (s : State) : State :=
  if frameEndEnabled k s then frameEnd env k s else frameStart k s

end Sys2Proof.Machine
end

