-- ==== Sys2Proof/Machine/Schedule.lean ====
section
/-! DEFINITION. Which agents may move, what each does, and how the machine stops where none may (41_transaction.md
R133 to R141, 60_exceptions.md R167 (4), R169, 70_reset_and_hazards.md R186). -/

namespace Sys2Proof.Machine

/-- The controller has a step: no mark is set (60_exceptions.md R169), and in READY a command word is left
(10_state.md R28, R29). In POLL it always has one (41_transaction.md R135). -/
def controllerEnabled (s : State) : Bool :=
  s.fault.isNone && s.refused.isNone &&
    match s.phase with
    | .ready => decide (s.cp < s.cmd.length)
    | .poll _ _ => true
    | .collect _ => true

/-- An agent has a step. -/
def agentEnabled (s : State) : Agent → Bool
  | .controller => controllerEnabled s
  | .peripheral k => frameStartEnabled k s || frameEndEnabled k s

/-- The agents that have a step, in a fixed order. -/
def enabledAgents (s : State) : List Agent :=
  [Agent.controller, .peripheral .unit0, .peripheral .unit1].filter (agentEnabled s)

/-- The controller's step. -/
def controllerStep (env : Env) (s : State) : Host.Outcome State Fault Refusal :=
  match s.phase with
  | .ready => readyStep s
  | .poll k _ => .next (pollStep k s)
  | .collect k => .next (collectStep env k s)

/-- The step of one agent. -/
def agentStep (env : Env) (s : State) : Agent → Host.Outcome State Fault Refusal
  | .controller => controllerStep env s
  | .peripheral k => .next (peripheralStep env k s)

/-- A final state: the run has ended (70_reset_and_hazards.md R186). -/
def State.final (s : State) : Bool :=
  decide (s.phase = .ready) && decide (s.cp = s.cmd.length) && s.fault.isNone && s.refused.isNone &&
    (s.per.x0.txq.isEmpty && s.per.x0.shift.isNone) && (s.per.x1.txq.isEmpty && s.per.x1.shift.isNone)

/-- How the machine stops in a state in which no agent has a step (log 9, log 10). -/
def stop (s : State) : Host.Outcome State Fault Refusal :=
  match s.fault with
  | some r => .fault (.illegalCommand r)
  | none =>
    match s.refused with
    | some r => .refused (.divisorOutOfRange r)
    | none =>
      if s.final then .fault .endOfRun
      else if s.cmd.length < s.cp then .fault .noCommandWord
      else .fault .stuck

/-- The agent that moves where the first of several enabled ones is `first`: the environment's choice if that agent has a
step, else `first`. Every enabled agent is the choice of some environment (log 5). -/
def chosen (env : Env) (s : State) (first : Agent) : Agent :=
  if agentEnabled s (env.turn s.turns) then env.turn s.turns else first

/-- A scheduling choice taken. -/
def State.turnTaken (s : State) : State := { s with turns := s.turns + 1 }

/-- One step under an environment: the only agent that has a step moves; of several the environment chooses one. -/
def scheduledStep (env : Env) (s : State) : Host.Outcome State Fault Refusal :=
  match enabledAgents s with
  | [] => stop s
  | [a] => agentStep env s a
  | a :: _ => agentStep env s.turnTaken (chosen env s a)

end Sys2Proof.Machine
end

