-- ==== Sys2Proof/Machine/Step.lean ====
section
/-! DEFINITION. The step of the machine, and the placing of an instruction where the next step reads it. -/

namespace Sys2Proof.Machine

/-- One step under a named environment (41_transaction.md R140, R141: the draws and the interleaving). -/
def stepUnder (env : Env) (s : State) : Host.Outcome State Fault Refusal := scheduledStep env s

/-- One step of the machine: its environment is the free values of Config. -/
def step (s : State) : Host.Outcome State Fault Refusal := stepUnder Config.env s

/-- `s` with an instruction's words in the command stream at cp, and ready to decode them. This stands for the caller's
supply of the stream (log 1). -/
def State.withFetchWord (s : State) (nbits w : Nat) : State :=
  s.decoding.loadStream (placeWords s.cp (tableWords nbits w) s.cmd)

end Sys2Proof.Machine
end

