-- ==== Sys2Proof/Safety.lean ====
section
/-! DEFINITION. The terms claims use: the premises the spec names (PlatformReady, PeripheralCompletes), runs under an
environment, and the invariants of the block (10_state.md R27, R37, 41_transaction.md R138, 70_reset_and_hazards.md
R187). -/

namespace Sys2Proof.Machine

/-! ## Premises -/

/-- `PlatformReady` (70_reset_and_hazards.md R184): the parameters are the spec's (00_scope.md R11 to R13, 20_memory.md R54). That the
units are clocked, that the pin primitives succeed and that F_SYS stays fixed is built into the step (log 22). -/
def PlatformReady (s : State) : Prop := s.plat.Wf s.nPins

/-- `PeripheralCompletes(u)` (41_transaction.md R141): the environment lets the peripheral of `u` move again and again,
so every queued byte is started and every started frame ends. -/
def PeripheralCompletes (env : Env) (k : UnitId) : Prop := ∀ n, ∃ m, n ≤ m ∧ env.turn m = .peripheral k

/-- The environment never lets a peripheral move where the controller has a step: the run of 41_transaction.md R141 in
which the busy-poll never ends. -/
def PeripheralHangs (env : Env) : Prop := ∀ n, env.turn n = .controller

/-! ## Runs -/

/-- `n` steps under an environment, up to the first stop. -/
def runUnder (env : Env) : Nat → State → Host.Outcome State Fault Refusal
  | 0, s => .next s
  | n + 1, s =>
    match stepUnder env s with
    | .next t => runUnder env n t
    | .fault f => .fault f
    | .refused r => .refused r

/-! ## Invariants -/

/-- Nothing is queued to send on a unit and no frame is in flight. -/
def UnitPer.quiet (p : UnitPer) : Prop := p.txq = [] ∧ p.shift = none

/-- No peripheral agent has a step and no byte waits anywhere. -/
def UnitPer.empty (p : UnitPer) : Prop := p.quiet ∧ p.rxq = []

/-- What the binding of a configured unit says of its registers and its chip-select pin (10_state.md R27;
93_implementation_defined.md U13: "CONFIGURE always sets the CS pin's mux to match its discipline"). -/
structure BindingInv (s : State) (k : UnitId) (b : Binding) : Prop where
  freq_range : Config.fMin ≤ b.freq.toNat ∧ b.freq.toNat ≤ Config.fMax
  sck_role : s.inRole k .sck b.pinSck = true
  tx_role : s.inRole k .tx b.pinTx = true
  rx_role : s.inRole k .rx b.pinRx = true
  cs_role : s.inRole k .cs b.pinCs = true
  admitted : configureAdmitted s.plat.fSys b.freq.toNat = true
  ctrl_eq : (s.reg.get k).ctrl =
    (s.reg.get k).ctrl.program (cpolOf b.mode) (cphaOf b.mode) (divisorsFor s.plat.fSys b.freq.toNat).scaleRate
  prescale_eq : (s.reg.get k).prescale = (divisorsFor s.plat.fSys b.freq.toNat).prescale
  enabled : (s.reg.get k).ctrl1.enable = true
  cs_pin : ∃ x, s.pin? b.pinCs = some x ∧
    if b.hwcs then x.func = .spi else x.func = .sio ∧ x.oe = true

/-- A unit is Unconfigured with its peripheral disabled, or Configured with a binding that holds (10_state.md R27, R44,
R45, R31). -/
def UnitInv (s : State) (k : UnitId) : Prop :=
  match s.binding? k with
  | none => (s.reg.get k).ctrl1.enable = false
  | some b => BindingInv s k b

/-- `STATUS.BUSY = 1` if and only if TXQ is non-empty or SHIFT is not none (10_state.md R37). -/
def BusyInv (s : State) (k : UnitId) : Prop :=
  (s.reg.get k).busy = true ↔ (s.per.get k).txq ≠ [] ∨ (s.per.get k).shift ≠ none

/-- The byte of a polled TRANSFER is queued, or in flight, or exchanged (41_transaction.md R134 to R138). -/
def UnitPer.carrying (p : UnitPer) (d : Byte) : Prop :=
  (p.txq = [d] ∧ p.shift = none ∧ p.rxq = []) ∨
  (p.txq = [] ∧ p.shift = some d ∧ p.rxq = []) ∨
  (p.txq = [] ∧ p.shift = none ∧ ∃ r, p.rxq = [r])

/-- In READY nothing is in flight on either unit (70_reset_and_hazards.md R187); in POLL and COLLECT the one byte of the
TRANSFER is on its configured unit, and RXQ holds exactly one byte at COLLECT (41_transaction.md R138). -/
def PhaseInv (s : State) : Prop :=
  match s.phase with
  | .ready => ∀ k, (s.per.get k).empty
  | .poll k d => (s.cfg.get k).configured = true ∧ (s.per.get k).carrying d ∧ (s.per.get k.other).empty ∧
      s.cp < s.cmd.length
  | .collect k => (s.cfg.get k).configured = true ∧ (s.per.get k).quiet ∧ (∃ r, (s.per.get k).rxq = [r]) ∧
      (s.per.get k.other).empty ∧ s.cp < s.cmd.length

/-- A mark is set only in READY, and never both (60_exceptions.md R161, R163). -/
def MarkInv (s : State) : Prop :=
  (s.fault.isSome = true → s.phase = .ready ∧ s.refused = none) ∧ (s.refused.isSome = true → s.phase = .ready)

/-- The invariant of the block under PlatformReady. -/
structure Inv (s : State) : Prop where
  platform : PlatformReady s
  units : ∀ k, UnitInv s k
  busy : ∀ k, BusyInv s k
  phase : PhaseInv s
  marks : MarkInv s
  stream : s.cp ≤ s.cmd.length

/-- The stops the spec names: the end of a run (70_reset_and_hazards.md R186), the IllegalCommand fault, the DivisorOutOfRange refusal. -/
def specStop : Host.Outcome State Fault Refusal → Prop
  | .next _ => False
  | .fault .endOfRun => True
  | .fault (.illegalCommand _) => True
  | .refused (.divisorOutOfRange _) => True
  | _ => False

end Sys2Proof.Machine
end

