-- ==== Sys2Proof/Certificates/Slice0/Obligations.lean ====
section
/-! DEFINITION. The statements for the provers, one for each entry of OBLIGATIONS.json. Each docstring names the rule of
spec/ the statement formalises, and says where it rests on a choice of the model. -/

open Sys2Proof Sys2Proof.Machine

/-! ## Encoding (30_encoding.md) -/

/-- R72 to R78: decoding an encoded well-formed command gives it back, whatever follows it in the stream. -/
def Obligations.DecodeOfEncodedCommandIsThatCommand : Prop :=
  ∀ (i : Instr) (rest : List Word), i.wellFormed = true →
    decode (encodeWord0 i) (encodeOperands i ++ rest) = .ok i

/-- R72 to R82: a decoded command is well formed, and encoding it gives the words it was read from: no bit of a
legal word is ignored. -/
def Obligations.EncodeOfDecodedWordsIsThoseWords : Prop :=
  ∀ (w0 : Word) (rest : List Word) (i : Instr), decode w0 rest = .ok i →
    i.wellFormed = true ∧ encode i = (w0 :: rest).take i.length

/-- R79: with the operand words present, a word 0 decodes exactly when it fits a row of the opcode map, and then to that
row's command, of that row's length. -/
def Obligations.DecoderAcceptsExactlyTheOpcodeMap : Prop :=
  ∀ (w0 w1 w2 : Word) (rest : List Word),
    ((∃ i, decode w0 (w1 :: w2 :: rest) = .ok i) ↔ ∃ row ∈ opcodeRows, row.fits w0 = true) ∧
    ∀ i, decode w0 (w1 :: w2 :: rest) = .ok i →
      ∃ row ∈ opcodeRows, row.fits w0 = true ∧ row.mnemonic = i.mnemonic ∧ row.length = i.length

/-- R79: no word fits two rows of the opcode map. -/
def Obligations.OpcodeRowsNeverOverlap : Prop :=
  ∀ (w0 : Word), ∀ a ∈ opcodeRows, ∀ b ∈ opcodeRows, a.fits w0 = true → b.fits w0 = true → a = b

/-- R81, R82, R161: which words are illegal and with which cause, in the order of the decoder's checks. OP and UNIT are
the low and the next four bits of word 0; fewer than two words after word 0 means cp + 3 > L. -/
def Obligations.IllegalWordsAndTheirCauses : Prop :=
  ∀ (w0 : Word) (rest : List Word),
    let op := w0.toNat % 16
    let unit := w0.toNat / 16 % 16
    (decode w0 rest = .error .reservedOpcode ↔ op = 0 ∨ 5 ≤ op) ∧
    (decode w0 rest = .error .truncatedCommand ↔ op = 1 ∧ rest.length < 2) ∧
    (decode w0 rest = .error .reservedBits ↔
      (op = 1 ∧ 2 ≤ rest.length ∧ 2 ^ 17 ≤ w0.toNat) ∨ ((op = 2 ∨ op = 4) ∧ 2 ^ 8 ≤ w0.toNat) ∨
        (op = 3 ∧ 2 ^ 16 ≤ w0.toNat)) ∧
    (decode w0 rest = .error .unsupportedUnit ↔
      ((op = 2 ∨ op = 4) ∧ w0.toNat < 2 ^ 8 ∧ 2 ≤ unit) ∨ (op = 3 ∧ w0.toNat < 2 ^ 16 ∧ 2 ≤ unit))

/-- R78: every operand is a plain unsigned field of its word, at the place the rule gives. -/
def Obligations.OperandsArePlainUnsignedFields : Prop :=
  ∀ (w0 : Word) (rest : List Word) (i : Instr), decode w0 rest = .ok i →
    match i with
    | .configure u sck tx rx cs freqReq mode hwcs =>
      ∃ w1 w2 tail, rest = w1 :: w2 :: tail ∧
        u.toNat = w0.toNat / 2 ^ 4 % 2 ^ 4 ∧ mode.toNat = w0.toNat / 2 ^ 8 % 2 ^ 8 ∧
        hwcs.toNat = w0.toNat / 2 ^ 16 % 2 ∧
        sck.toNat = w1.toNat % 2 ^ 8 ∧ tx.toNat = w1.toNat / 2 ^ 8 % 2 ^ 8 ∧
        rx.toNat = w1.toNat / 2 ^ 16 % 2 ^ 8 ∧ cs.toNat = w1.toNat / 2 ^ 24 ∧ freqReq.toNat = w2.toNat
    | .beginTxn u => u.toNat = w0.toNat / 2 ^ 4 % 2 ^ 4
    | .transfer u d => u.toNat = w0.toNat / 2 ^ 4 % 2 ^ 4 ∧ d.toNat = w0.toNat / 2 ^ 8 % 2 ^ 8
    | .endTxn u => u.toNat = w0.toNat / 2 ^ 4 % 2 ^ 4

/-- R71: the length of a command is fixed by its OP field alone: OP 0x1 three words, OP 0x2, 0x3, 0x4 one word. -/
def Obligations.LengthIsFixedByTheOpcodeAlone : Prop :=
  ∀ (w0 : Word) (rest : List Word) (i : Instr), decode w0 rest = .ok i →
    i.length = (if w0.toNat % 16 = 1 then 3 else 1) ∧ (encode i).length = i.length

/-- R86: the worked encodings of 30_encoding.md section 9 decode to their commands. -/
def Obligations.WorkedEncodingsDecode : Prop :=
  decode 0x00010001 [0x11101312, 0x00989680] = .ok (.configure 0 18 19 16 17 10000000 0 true) ∧
  decode 0x00000012 [] = .ok (.beginTxn 1) ∧
  decode 0x0000A503 [] = .ok (.transfer 0 0xA5) ∧
  decode 0x00000004 [] = .ok (.endTxn 0)

/-- R52: a command stream carried as bytes is little-endian, byte 0 holding bits [7:0]; reading back the bytes of a
stream gives it, and bytes that are read as a stream are that stream's bytes. The second half rests on the model's own
choice that bytes which do not fill a whole word are no stream: R52 does not say so (log 24, DESIGN CHOICE). -/
def Obligations.ByteCarriageIsLittleEndianBothWays : Prop :=
  (∀ ws : List Word, wordsOfBytes (bytesOfWords ws) = some ws) ∧
  (∀ (bs : List Byte) (ws : List Word), wordsOfBytes bs = some ws → bytesOfWords ws = bs) ∧
  (∀ b0 b1 b2 b3 : Byte,
    (wordOfBytes b0 b1 b2 b3).toNat = b0.toNat + 2 ^ 8 * b1.toNat + 2 ^ 16 * b2.toNat + 2 ^ 24 * b3.toNat)

/-- R83: the responses as words, and that BEGIN and END respond with nothing. -/
def Obligations.ResponsesAsWords : Prop :=
  (∀ b : Bool, (Resp.ok b).word.toNat = if b then 1 else 0) ∧
  (∀ r : Byte, (Resp.byte r).word.toNat = r.toNat) ∧
  (∀ (u : BitVec 4) (s t : State),
    exec (.beginTxn u) s = .next t ∨ exec (.endTxn u) s = .next t → t.resp = s.resp)

/-! ## The step (30_encoding.md R82, 41_transaction.md R141, 60_exceptions.md, 70_reset_and_hazards.md) -/

/-- R82: in READY, with no mark set, no peripheral step pending and a legal command at cp, a step is exactly the
decoded command's meaning. -/
def Obligations.StepRunsTheDecodedCommand : Prop :=
  ∀ (env : Env) (s : State) (w0 : Word) (rest : List Word) (i : Instr),
    s.phase = .ready → s.fault = none → s.refused = none →
    (∀ k, agentEnabled s (.peripheral k) = false) →
    s.cmd.drop s.cp = w0 :: rest → decode w0 rest = .ok i →
    stepUnder env s = exec i s ∧ step s = exec i s

/-- A word placed where the next step reads it is decoded and run by that step, in every state (log 1: this is the
model's stand-in for the caller's supply of the stream). -/
def Obligations.PlacedWordIsRunByTheNextStep : Prop :=
  ∀ (s : State) (nbits w : Nat) (i : Instr), decodeTableWord nbits w = some i →
    step (s.withFetchWord nbits w) = exec i (s.withFetchWord nbits w) ∧ (s.withFetchWord nbits w).cp = s.cp

/-- R161: on a malformed word the controller sets the fault mark with cp, word 0 and the cause, and nothing else of the
state changes. -/
def Obligations.IllegalCommandSetsOnlyTheFaultMark : Prop :=
  ∀ (env : Env) (s : State) (w0 : Word) (rest : List Word) (cause : Cause),
    s.phase = .ready → s.fault = none → s.refused = none →
    (∀ k, agentEnabled s (.peripheral k) = false) →
    s.cmd.drop s.cp = w0 :: rest → decode w0 rest = .error cause →
    stepUnder env s = .next { s with fault := some { cp := s.cp, word := w0, cause := cause } }

/-- R169, R43: a fault or refusal ends the controller's progress for good: the controller has no step, every step that a
peripheral may still take leaves the marks as they are, and where no peripheral has a step there is no next state. That
the marks stay is R43's, and that the peripherals may still move is the model's reading (log 23, DEDUCED). -/
def Obligations.MarkedStateHasNoNextControllerStep : Prop :=
  ∀ (env : Env) (s : State), (s.fault.isSome = true ∨ s.refused.isSome = true) →
    agentEnabled s .controller = false ∧
    (∀ t, stepUnder env s = .next t → t.fault = s.fault ∧ t.refused = s.refused) ∧
    ((∀ k, agentEnabled s (.peripheral k) = false) → ∀ t, stepUnder env s ≠ .next t)

/-- R43: once set, neither mark is ever cleared or changed. -/
def Obligations.MarksAreNeverCleared : Prop :=
  ∀ (env : Env) (s t : State), stepUnder env s = .next t →
    (∀ r, s.fault = some r → t.fault = some r) ∧ (∀ r, s.refused = some r → t.refused = some r)

/-- R186: exactly the states the rule lists are final, a marked or polling state is not, and a final state has no next
state. -/
def Obligations.FinalStatesAreTheEndOfTheRun : Prop :=
  ∀ (env : Env) (s : State),
    (s.final = true ↔ s.phase = .ready ∧ s.cp = s.cmd.length ∧ s.fault = none ∧ s.refused = none ∧
      ∀ k, (s.per.get k).txq = [] ∧ (s.per.get k).shift = none) ∧
    (s.final = true → ∀ t, stepUnder env s ≠ .next t)

/-- R29, R188: while a TRANSFER is polled or collected no other command is decoded: no step changes a binding, a pin,
a mark or the registers that CONFIGURE writes, and the command pointer moves only at the collect, by one word. -/
def Obligations.PendingTransferHoldsEveryCommand : Prop :=
  ∀ (env : Env) (s t : State), s.phase ≠ .ready → stepUnder env s = .next t →
    t.cfg = s.cfg ∧ t.pins = s.pins ∧ t.fault = s.fault ∧ t.refused = s.refused ∧
    (∀ k, (t.reg.get k).ctrl = (s.reg.get k).ctrl ∧ (t.reg.get k).ctrl1 = (s.reg.get k).ctrl1 ∧
      (t.reg.get k).prescale = (s.reg.get k).prescale) ∧
    (t.cp = s.cp ∧ t.resp = s.resp ∨
      (∃ k r, s.phase = .collect k ∧ t.phase = .ready ∧ t.cp = s.cp + 1 ∧ t.resp = s.resp ++ [.byte r]))

/-- R28: a step leaves cp where it was, or adds the length of the command that completes in it. -/
def Obligations.CommandPointerAdvancesByCommandLength : Prop :=
  ∀ (env : Env) (s t : State), stepUnder env s = .next t →
    t.cp = s.cp ∨
    (s.phase = .ready ∧ ∃ w0 rest i, s.cmd.drop s.cp = w0 :: rest ∧ decode w0 rest = .ok i ∧ t.cp = s.cp + i.length) ∨
    (∃ k, s.phase = .collect k ∧ t.cp = s.cp + 1)

/-- R167 (4), R58: a next state is always the step of one agent that was enabled; the only other effect is the model's
own count of scheduling choices (log 5). -/
def Obligations.EveryStepIsOneEnabledAgents : Prop :=
  ∀ (env : Env) (s t : State), stepUnder env s = .next t →
    ∃ a n, agentEnabled s a = true ∧ agentStep env { s with turns := n } a = .next t

/-- R167 (4): "Their steps interleave freely": every enabled agent moves next under some environment, whatever bytes
and levels that environment gives. -/
def Obligations.EveryEnabledAgentMayMoveNext : Prop :=
  ∀ (env : Env) (s : State) (a : Agent), agentEnabled s a = true →
    ∃ (turn : Nat → Agent) (n : Nat),
      stepUnder { env with turn := turn } s = agentStep { env with turn := turn } { s with turns := n } a

/-! ## Rules of the whole machine -/

/-- R64, R26, 10_state.md R20: no step changes the command stream, F_SYS, PINMAP, BASE or the number of pins. -/
def Obligations.NoStepChangesStreamOrParameters : Prop :=
  ∀ (env : Env) (s t : State), stepUnder env s = .next t →
    t.cmd = s.cmd ∧ t.plat = s.plat ∧ t.nPins = s.nPins

/-- R38, R42: the bus history and the response stream are appended to and nothing is ever removed; one step appends at
most one response. -/
def Obligations.HistoryAndResponsesOnlyGrow : Prop :=
  ∀ (env : Env) (s t : State), stepUnder env s = .next t →
    (∃ es, t.bus = s.bus ++ es) ∧ (t.resp = s.resp ∨ ∃ r, t.resp = s.resp ++ [r])

/-- R21: no step clears configured, and a step that sets it runs a CONFIGURE of that unit that passes validation and
responds Ok(true). -/
def Obligations.ConfiguredIsSetOnlyByASuccessfulConfigure : Prop :=
  ∀ (env : Env) (s t : State) (k : UnitId), stepUnder env s = .next t →
    ((s.cfg.get k).configured = true → (t.cfg.get k).configured = true) ∧
    ((s.cfg.get k).configured = false → (t.cfg.get k).configured = true →
      ∃ w0 rest sck tx rx cs freqReq mode hwcs, s.cmd.drop s.cp = w0 :: rest ∧
        decode w0 rest = .ok (.configure k.field sck tx rx cs freqReq mode hwcs) ∧
        s.valid k.field sck tx rx cs mode = true ∧ t.resp = s.resp ++ [.ok true])

/-- R31, R30, R35: no step clears ENABLE, and none changes LBM, MS, SOD, the reserved bits of CTRL, the interrupt mask or
the DMA enables. -/
def Obligations.UnnamedRegisterFieldsKeepTheirValues : Prop :=
  ∀ (env : Env) (s t : State) (k : UnitId), stepUnder env s = .next t →
    ((s.reg.get k).ctrl1.enable = true → (t.reg.get k).ctrl1.enable = true) ∧
    (t.reg.get k).ctrl1.lbm = (s.reg.get k).ctrl1.lbm ∧ (t.reg.get k).ctrl1.ms = (s.reg.get k).ctrl1.ms ∧
    (t.reg.get k).ctrl1.sod = (s.reg.get k).ctrl1.sod ∧
    (t.reg.get k).ctrl.reserved = (s.reg.get k).ctrl.reserved ∧
    (t.reg.get k).imsc = (s.reg.get k).imsc ∧ (t.reg.get k).dmacr = (s.reg.get k).dmacr

/-- The reset table of 70_reset_and_hazards.md section 1, every row; the binding is unwritten, and what its fields hold
then is left out (log 4). The values of REG, PER and PIN are the spec's own
(D17) and those of the parameters its default instance (logs 2, 3, 13). -/
def Obligations.ResetStateIsTheResetTable : Prop :=
  let s := State.reset
  (∀ k, (s.cfg.get k).configured = false ∧ s.binding? k = none) ∧
  s.plat.base.get .unit0 = 0x4003C000 ∧ s.plat.base.get .unit1 = 0x40040000 ∧
  (∀ k, (s.reg.get k).ctrl =
      { reserved := 0, scaleRate := 0, cpha := false, cpol := false, frf := 0, dss := 0 } ∧
    (s.reg.get k).ctrl1 = { lbm := false, enable := false, ms := false, sod := false } ∧
    (s.reg.get k).prescale = 0 ∧ (s.reg.get k).busy = false) ∧
  (∀ k, (s.per.get k).txq = [] ∧ (s.per.get k).rxq = [] ∧ (s.per.get k).shift = none) ∧
  s.nPins = 30 ∧
  (∀ x ∈ s.pins, x.func = .none ∧ x.oe = false ∧ x.out = false ∧ x.drive = .default ∧ x.slew = .default) ∧
  s.cp = 0 ∧ s.phase = .ready ∧ s.resp = [] ∧ s.bus = [] ∧ s.fault = none ∧ s.refused = none

/-- R182: after reset the controller decodes CMD[0]. -/
def Obligations.AfterResetTheFirstWordIsDecoded : Prop :=
  ∀ (w0 : Word) (rest : List Word),
    step (State.reset.loadStream (w0 :: rest)) =
      match decode w0 rest with
      | .error cause =>
        .next { State.reset.loadStream (w0 :: rest) with fault := some { cp := 0, word := w0, cause := cause } }
      | .ok i => exec i (State.reset.loadStream (w0 :: rest))

/-- The reset state, with any command stream supplied, meets the invariant of the block. -/
def Obligations.ResetMeetsTheBlockInvariant : Prop :=
  ∀ ws : List Word, Inv (State.reset.loadStream ws)

/-- The invariant of the block is kept by every step under every environment: 10_state.md R27 and R37 (both ways of the
BUSY rule), the occupancy of the queues of 41_transaction.md R138, 70_reset_and_hazards.md R187, and that the parameters
stay the spec's. -/
def Obligations.EveryStepKeepsTheBlockInvariant : Prop :=
  ∀ (env : Env) (s t : State), Inv s → stepUnder env s = .next t → Inv t

/-- Under the invariant a step that gives no next state stops for a reason the spec names: the end of the run, the
IllegalCommand fault or the DivisorOutOfRange refusal. The model's other faults are never reached. -/
def Obligations.OnlyTheSpecsStopsAreReached : Prop :=
  ∀ (env : Env) (s : State), Inv s → (∃ t, stepUnder env s = .next t) ∨ specStop (stepUnder env s)

/-- R2, 20_memory.md R60: a command of one unit does the same whatever the other unit's binding, registers and queues
hold, and leaves them as they are. -/
def Obligations.CommandsOfOneUnitIgnoreTheOther : Prop :=
  ∀ (s t : State) (k : UnitId) (i : Instr) (c : UnitCfg) (r : UnitRegs) (p : UnitPer),
    (match i with
      | .configure u _ _ _ _ _ _ _ => u = k.field
      | .beginTxn u => u = k.field
      | .transfer u _ => u = k.field
      | .endTxn u => u = k.field) →
    exec i s = .next t →
    exec i { s with cfg := s.cfg.set k.other c, reg := s.reg.set k.other r, per := s.per.set k.other p } =
      .next { t with cfg := t.cfg.set k.other c, reg := t.reg.set k.other r, per := t.per.set k.other p } ∧
    t.cfg.get k.other = s.cfg.get k.other ∧ t.reg.get k.other = s.reg.get k.other ∧
    t.per.get k.other = s.per.get k.other

/-! ## CONFIGURE (40_configure.md) -/

/-- R91 to R94: the validator is the conjunction of the unit check, the mode check and the four role checks. -/
def Obligations.ValidatorIsRoleMembership : Prop :=
  ∀ (s : State) (u : BitVec 4) (sck tx rx cs : Byte) (mode : BitVec 8), PlatformReady s →
    (s.valid u sck tx rx cs mode = true ↔
      mode.toNat ≤ 3 ∧ ∃ k : UnitId, u.toNat = (match k with | .unit0 => 0 | .unit1 => 1) ∧
        sck ∈ (s.plat.pinmap.get k).sck ∧ tx ∈ (s.plat.pinmap.get k).tx ∧
        rx ∈ (s.plat.pinmap.get k).rx ∧ cs ∈ (s.plat.pinmap.get k).cs)

/-- R95 (marked derived in the spec): four valid pins are pairwise distinct and none is in the other unit's group. -/
def Obligations.ValidPinsAreDistinctAndOfTheUnit : Prop :=
  ∀ (s : State) (k : UnitId) (sck tx rx cs : Byte) (mode : BitVec 8), PlatformReady s →
    s.valid k.field sck tx rx cs mode = true →
    [sck, tx, rx, cs].Nodup ∧
    ∀ p ∈ [sck, tx, rx, cs], ∀ r, p ∉ (s.plat.pinmap.get k.other).get r

/-- R96: a requested frequency below 2500 Hz is clamped to 2500, one above 25 000 000 Hz to 25 000 000, and any other
passes through. -/
def Obligations.RequestedFrequencyIsClamped : Prop :=
  ∀ freqReq : BitVec 32,
    (freqReq.toNat < 2500 → clampFreq freqReq = 2500) ∧
    (25000000 < freqReq.toNat → clampFreq freqReq = 25000000) ∧
    (2500 ≤ freqReq.toNat → freqReq.toNat ≤ 25000000 → clampFreq freqReq = freqReq.toNat)

/-- R102 (marked derived in the spec), of R97 to R100: the properties of the two dividers for every F_SYS and every
positive frequency. -/
def Obligations.DividersHaveTheStatedProperties : Prop :=
  ∀ fSys f : Nat, 0 < f →
    let n := fSys / f + 1
    let d := divisorsFor fSys f
    d.fine % 2 = 0 ∧ d.fine ≤ 254 ∧
    1 ≤ d.coarse ∧ n ≤ 254 * d.coarse ∧ (∀ m, n ≤ 254 * m → d.coarse ≤ m) ∧
    (d.coarse = 1 → d.fine = n - n % 2 ∧ n ≤ 254) ∧
    (1 < d.coarse → 126 ≤ d.fine ∧ d.fine = n / d.coarse - n / d.coarse % 2) ∧
    (d.fine = 0 ↔ fSys < f)

/-- R100, R114: the even step of the fine divider clears bit 0 and leaves every other bit. -/
def Obligations.EvenStepClearsBitZeroOnly : Prop :=
  ∀ x i : Nat, (clearBit0 x).testBit i = (decide (i ≠ 0) && x.testBit i)

/-- R12 and R104: the admitted range of F_SYS is exactly the one in which every clamped frequency gives dividers that
fit their fields (the spec marks the inference derived). -/
def Obligations.AdmittedClockRangeIsExact : Prop :=
  ∀ fSys : Nat, (25000000 ≤ fSys ∧ fSys ≤ 162559999) ↔
    ∀ f, 2500 ≤ f → f ≤ 25000000 → (divisorsFor fSys f).admitted = true

/-- R111: a CONFIGURE that is not valid responds Ok(false), advances cp by 3, and changes nothing else. -/
def Obligations.InvalidConfigureOnlyAnswersFalse : Prop :=
  ∀ (s : State) (u : BitVec 4) (sck tx rx cs : Byte) (freqReq : BitVec 32) (mode : BitVec 8) (hwcs : Bool),
    s.valid u sck tx rx cs mode = false →
    exec (.configure u sck tx rx cs freqReq mode hwcs) s =
      .next { s with resp := s.resp ++ [.ok false], cp := s.cp + 3 }

/-- R163, R104, R12: a valid CONFIGURE with P < 2 or S - 1 > 255, or at an F_SYS outside 25 000 000 to 162 559 999, sets the
refusal mark and changes nothing else. That an F_SYS outside the range is refused where the dividers of this CONFIGURE
happen to fit is the model's reading of R12 beside R104 and R110 (log 11, DEDUCED). -/
def Obligations.UnadmittedConfigureSetsOnlyTheRefusalMark : Prop :=
  ∀ (s : State) (u : BitVec 4) (sck tx rx cs : Byte) (freqReq : BitVec 32) (mode : BitVec 8) (hwcs : Bool) (f n c p : Nat),
    s.valid u sck tx rx cs mode = true →
    f = min (max freqReq.toNat 2500) 25000000 → n = s.plat.fSys / f + 1 → c = (n + 253) / 254 →
    p = n / c - n / c % 2 → (p < 2 ∨ 255 < c - 1 ∨ s.plat.fSys < 25000000 ∨ 162559999 < s.plat.fSys) →
    exec (.configure u sck tx rx cs freqReq mode hwcs) s = .next { s with refused := some { cp := s.cp } }

/-- R110, with R97 to R101 and R105 to R109 written out: what a valid CONFIGURE at an F_SYS in the admitted range of R12,
where its dividers fit, leaves in every part of the state, the order of its bus events, and that nothing else changes.
Outside that range it is refused (UnadmittedConfigureSetsOnlyTheRefusalMark; log 11, DEDUCED). The mode mapping CPOL = m[1], CPHA = m[0] and
the codes 00 and 0111 of FRF and DSS are the spec's general knowledge, not its source (log 18). -/
def Obligations.ValidConfigureCommits : Prop :=
  ∀ (s : State) (k : UnitId) (sck tx rx cs : Byte) (freqReq : BitVec 32) (mode : BitVec 8) (hwcs : Bool) (f n c p : Nat),
    PlatformReady s → s.valid k.field sck tx rx cs mode = true →
    f = min (max freqReq.toNat 2500) 25000000 → n = s.plat.fSys / f + 1 → c = (n + 253) / 254 →
    p = n / c - n / c % 2 → 25000000 ≤ s.plat.fSys → s.plat.fSys ≤ 162559999 →
    2 ≤ p ∧ c - 1 ≤ 255 ∧ ∃ (t : State) (csPin : PinState), s.pin? cs = some csPin ∧
      exec (.configure k.field sck tx rx cs freqReq mode hwcs) s = .next t ∧
      t.cfg = s.cfg.set k
        { configured := true
          binding :=
            { freq := BitVec.ofNat 32 f, mode := mode.setWidth 2, hwcs := hwcs
              pinSck := sck, pinTx := tx, pinRx := rx, pinCs := cs } } ∧
      t.reg = s.reg.set k
        { s.reg.get k with
          ctrl :=
            { (s.reg.get k).ctrl with
              cpol := mode.getLsbD 1, cpha := mode.getLsbD 0, frf := 0b00, dss := 0b0111
              scaleRate := BitVec.ofNat 8 (c - 1) }
          ctrl1 := { (s.reg.get k).ctrl1 with enable := true }
          prescale := BitVec.ofNat 8 p } ∧
      t.resp = s.resp ++ [.ok true] ∧ t.cp = s.cp + 3 ∧
      t.bus = s.bus ++ [.mux sck .spi, .mux tx .spi, .mux rx .spi] ++
        (if hwcs then [.mux cs .spi] else [.mux cs .sio, .csDrive k cs csPin.out, .csDrive k cs true]) ++
        (if 8000000 ≤ f then [.padUpgrade sck, .padUpgrade tx] else []) ∧
      t.nPins = s.nPins ∧
      (∀ q x, s.pin? q = some x → t.pin? q = some
        (if q = sck ∨ q = tx then
          if 8000000 ≤ f then { x with func := .spi, drive := .high, slew := .fast } else { x with func := .spi }
        else if q = rx then { x with func := .spi }
        else if q = cs then
          if hwcs then { x with func := .spi } else { x with func := .sio, oe := true, out := true }
        else x)) ∧
      t.plat = s.plat ∧ t.cmd = s.cmd ∧ t.per = s.per ∧ t.phase = s.phase ∧ t.fault = s.fault ∧
      t.refused = s.refused ∧ t.turns = s.turns ∧ t.draws = s.draws

/-- R113, R112: a CONFIGURE of one unit, successful or not, leaves the other unit's binding, registers, queues and every
pin of its group as they were, and every pin the quadruple does not name. -/
def Obligations.ConfigureTouchesOnlyItsUnitAndPins : Prop :=
  ∀ (s t : State) (k : UnitId) (sck tx rx cs : Byte) (freqReq : BitVec 32) (mode : BitVec 8) (hwcs : Bool),
    PlatformReady s → exec (.configure k.field sck tx rx cs freqReq mode hwcs) s = .next t →
    t.cfg.get k.other = s.cfg.get k.other ∧ t.reg.get k.other = s.reg.get k.other ∧ t.per = s.per ∧
    (∀ r, ∀ q ∈ (s.plat.pinmap.get k.other).get r, t.pin? q = s.pin? q) ∧
    (∀ q, q ∉ [sck, tx, rx, cs] → t.pin? q = s.pin? q)

/-- 20_memory.md R55, R66: the writes of CTRL and CTRL1 are masked writes of the register word: read the register,
replace the named fields, write the result back. The word layout is the spec's reference layout (log 17). -/
def Obligations.ControlWritesAreMaskedWrites : Prop :=
  (∀ (c : Ctrl) (cpol cpha : Bool) (rate : BitVec 8),
    (c.program cpol cpha rate).toWord =
      maskedWrite c.toWord ctrlMask
        (BitVec.ofNat 32 (rate.toNat * 2 ^ 8 + cpha.toNat * 2 ^ 7 + cpol.toNat * 2 ^ 6 + 7))) ∧
  (∀ c : Ctrl1, c.setEnable.toWord = maskedWrite c.toWord enableMask enableMask) ∧
  (∀ c : Ctrl, Ctrl.ofWord c.toWord = c) ∧ (∀ c : Ctrl1, Ctrl1.ofWord c.toWord = c) ∧
  (∀ w : Word, (Ctrl.ofWord w).toWord = w)

/-- 20_memory.md R66, R60: distinct registers of the two units have distinct effective addresses BASE[u] + offset,
whatever the bases, as long as the two windows lie apart. The offsets and the 4 KiB window are the spec's reference
layout (log 17, PRESUMED), and the address width of 32 bits is the model's choice (log 27, DESIGN CHOICE). -/
def Obligations.EffectiveAddressesAreDistinct : Prop :=
  ∀ (p : Platform) (nPins : Nat) (u v : UnitId) (a b : RegName), p.Wf nPins →
    effAddr p u a = effAddr p v b → u = v ∧ a = b

/-- 20_memory.md R54: "Register accesses are aligned 32-bit accesses at BASE[u] + offset": every effective address of an
admitted platform is a multiple of 4, and the sum does not wrap. The offsets are the spec's reference layout (log 17,
PRESUMED), and the address width of 32 bits is the model's choice (log 27, DESIGN CHOICE). -/
def Obligations.EffectiveAddressesAreAligned : Prop :=
  ∀ (p : Platform) (nPins : Nat) (u : UnitId) (r : RegName), p.Wf nPins →
    (effAddr p u r).toNat = (p.base.get u).toNat + r.offset ∧ (effAddr p u r).toNat % 4 = 0

/-- 20_memory.md R56: a second write of the same value by a pin primitive changes no pin: routing, output enable, level
and pads. -/
def Obligations.PinPrimitivesAreIdempotent : Prop :=
  ∀ (s : State) (u : UnitId) (p : Byte) (func : PinFunc) (level : Bool),
    ((s.routePin p func).routePin p func).pins = (s.routePin p func).pins ∧
    ((s.enableCsOutput u p).enableCsOutput u p).pins = (s.enableCsOutput u p).pins ∧
    ((s.driveCs u p level).driveCs u p level).pins = (s.driveCs u p level).pins ∧
    ((s.upgradePad p).upgradePad p).pins = (s.upgradePad p).pins

/-! ## BEGIN and END (41_transaction.md) -/

/-- R130: BEGIN on a configured unit of the software-toggled discipline drives the chip-select pin low, appends
CsDrive(u, p, 0) and advances cp by 1; on an unconfigured unit and under the peripheral-automated discipline it only
advances cp. Nothing else changes. Its word is 0x2 with the unit above it. -/
def Obligations.BeginDrivesChipSelectLowOrDoesNothing : Prop :=
  ∀ (s : State) (k : UnitId),
    (∀ rest, decode (0x2 + 0x10 * k.field.setWidth 32) rest = .ok (.beginTxn k.field)) ∧
    ((s.cfg.get k).configured = false → exec (.beginTxn k.field) s = .next { s with cp := s.cp + 1 }) ∧
    (∀ b, (s.cfg.get k).configured = true → (s.cfg.get k).binding = b →
      (b.hwcs = true → exec (.beginTxn k.field) s = .next { s with cp := s.cp + 1 }) ∧
      (b.hwcs = false → b.pinCs.toNat < s.nPins →
        exec (.beginTxn k.field) s =
          .next { s with
            pins := s.pins.modify b.pinCs.toNat fun x => { x with out := false }
            bus := s.bus ++ [.csDrive k b.pinCs false]
            cp := s.cp + 1 }))

/-- R131: END on a configured unit of the software-toggled discipline drives the chip-select pin high, appends
CsDrive(u, p, 1) and advances cp by 1; on an unconfigured unit and under the peripheral-automated discipline it only
advances cp. Nothing else changes. Its word is 0x4 with the unit above it. -/
def Obligations.EndDrivesChipSelectHighOrDoesNothing : Prop :=
  ∀ (s : State) (k : UnitId),
    (∀ rest, decode (0x4 + 0x10 * k.field.setWidth 32) rest = .ok (.endTxn k.field)) ∧
    ((s.cfg.get k).configured = false → exec (.endTxn k.field) s = .next { s with cp := s.cp + 1 }) ∧
    (∀ b, (s.cfg.get k).configured = true → (s.cfg.get k).binding = b →
      (b.hwcs = true → exec (.endTxn k.field) s = .next { s with cp := s.cp + 1 }) ∧
      (b.hwcs = false → b.pinCs.toNat < s.nPins →
        exec (.endTxn k.field) s =
          .next { s with
            pins := s.pins.modify b.pinCs.toNat fun x => { x with out := true }
            bus := s.bus ++ [.csDrive k b.pinCs true]
            cp := s.cp + 1 }))

/-- 10_state.md R44: no rule reads an unwritten binding field. Whatever the binding of an Unconfigured unit holds, every
step does the same and leaves it as it is, until a CONFIGURE that commits writes all of it; so nothing rests on the value
the model gives it at reset (log 4). -/
def Obligations.UnwrittenBindingIsNeverRead : Prop :=
  ∀ (env : Env) (s : State) (k : UnitId) (b : Binding), (s.cfg.get k).configured = false →
    let s' := { s with cfg := s.cfg.set k { configured := false, binding := b } }
    (∀ t, stepUnder env s = .next t →
      ((t.cfg.get k).configured = true → stepUnder env s' = .next t) ∧
      ((t.cfg.get k).configured = false → t.cfg.get k = s.cfg.get k ∧
        stepUnder env s' = .next { t with cfg := t.cfg.set k { configured := false, binding := b } })) ∧
    (∀ f, stepUnder env s = .fault f → stepUnder env s' = .fault f) ∧
    (∀ r, stepUnder env s = .refused r → stepUnder env s' = .refused r)

/-- The model's own choice, which no rule of the spec states (log 21, DESIGN CHOICE): a BEGIN or END that would drive a
bound chip-select pin at or above NPINS stops, since no such pin exists (00_scope.md R13). No run from reset reaches such
a state. -/
def Obligations.AbsentChipSelectPinStopsBeginAndEnd : Prop :=
  ∀ (s : State) (k : UnitId) (b : Binding), (s.cfg.get k).configured = true → (s.cfg.get k).binding = b →
    b.hwcs = false → s.nPins ≤ b.pinCs.toNat →
    exec (.beginTxn k.field) s = .fault (.noSuchPin b.pinCs) ∧
    exec (.endTxn k.field) s = .fault (.noSuchPin b.pinCs)

/-- BEGIN, TRANSFER and END terms with a UNIT of 2 or more, which the decoder never gives: they raise the fault of cause
UnsupportedUnit, as their word does in the stream (the model's choice, log 12). -/
def Obligations.UnitlessCommandsRaiseUnsupportedUnit : Prop :=
  ∀ (s : State) (u : BitVec 4) (d : Byte) (i : Instr), 2 ≤ u.toNat →
    i = .beginTxn u ∨ i = .transfer u d ∨ i = .endTxn u →
    exec i s = .next { s with fault := some { cp := s.cp, word := encodeWord0 i, cause := .unsupportedUnit } } ∧
    decode (encodeWord0 i) [] = .error .unsupportedUnit

/-! ## TRANSFER and the peripheral (41_transaction.md) -/

/-- R132: on an unconfigured unit TRANSFER responds Byte(0x00), advances cp by 1 in one step, and changes nothing else. -/
def Obligations.UnconfiguredTransferAnswersZero : Prop :=
  ∀ (s : State) (k : UnitId) (d : Byte), (s.cfg.get k).configured = false →
    exec (.transfer k.field d) s = .next { s with resp := s.resp ++ [.byte 0x00], cp := s.cp + 1 }

/-- R134: on a configured unit TRANSFER pushes its byte onto TXQ, raises BUSY and polls, in one step, and changes
nothing else. -/
def Obligations.ConfiguredTransferIssuesItsByte : Prop :=
  ∀ (s : State) (k : UnitId) (d : Byte), (s.cfg.get k).configured = true →
    exec (.transfer k.field d) s =
      .next { s with
        per := s.per.set k { s.per.get k with txq := (s.per.get k).txq ++ [d] }
        reg := s.reg.set k { s.reg.get k with busy := true }
        phase := .poll k d }

/-- R135: the poll step reads BUSY, which has no side effect; BUSY = 0 moves the phase to COLLECT(u), BUSY = 1 changes
nothing. -/
def Obligations.PollReadsBusyOnly : Prop :=
  ∀ (env : Env) (s : State) (k : UnitId) (d : Byte), s.phase = .poll k d →
    controllerStep env s =
      if (s.reg.get k).busy then .next s else .next { s with phase := .collect k }

/-- R136: the frame-start step is enabled exactly when TXQ is non-empty, SHIFT is none and ENABLE is 1; it pops the head
of TXQ into SHIFT and appends FrameStart(u, d), and nothing else changes. -/
def Obligations.FrameStartShiftsTheQueueHead : Prop :=
  ∀ (env : Env) (s : State) (k : UnitId),
    (frameStartEnabled k s = true ↔
      (s.per.get k).txq ≠ [] ∧ (s.per.get k).shift = none ∧ (s.reg.get k).ctrl1.enable = true) ∧
    ∀ d rest, (s.per.get k).txq = d :: rest → (s.per.get k).shift = none →
      agentStep env s (.peripheral k) =
        .next { s with
          per := s.per.set k { s.per.get k with txq := rest, shift := some d }
          bus := s.bus ++ [.frameStart k d] }

/-- R137, R140: the frame-end step is enabled exactly when a frame is in flight; the drawn byte is pushed onto RXQ, SHIFT
and BUSY are cleared, and Frame(u, d, r, CSLINE(u)) is appended, and nothing else changes but the model's own count of
draws (log 6). A line the spec calls undefined has a free level (log 7). -/
def Obligations.FrameEndDeliversTheDrawnByte : Prop :=
  ∀ (env : Env) (s : State) (k : UnitId),
    (frameEndEnabled k s = true ↔ (s.per.get k).shift ≠ none) ∧
    ∀ d, (s.per.get k).shift = some d →
      agentStep env s (.peripheral k) =
        .next { s with
          per := s.per.set k
            { s.per.get k with rxq := (s.per.get k).rxq ++ [env.byte s.draws], shift := none }
          reg := s.reg.set k { s.reg.get k with busy := false }
          bus := s.bus ++ [.frame k d (env.byte s.draws) ((s.csLine? k).getD (env.line s.draws))]
          draws := s.draws + 1 }

/-- R140: the received byte is free: whatever the state, every byte is pushed onto RXQ by a frame-end step under some
environment, with the same interleaving and levels. -/
def Obligations.ReceivedByteMayBeAnyByte : Prop :=
  ∀ (env : Env) (s : State) (k : UnitId) (d r : Byte), (s.per.get k).shift = some d →
    ∃ (byte : Nat → Byte) (t : State), agentStep { env with byte := byte } s (.peripheral k) = .next t ∧
      (t.per.get k).rxq = (s.per.get k).rxq ++ [r]

/-- R138: the collect step pops the head of RXQ, responds with it, advances cp by 1 and returns to READY, and nothing else
changes. -/
def Obligations.CollectAnswersTheReceivedByte : Prop :=
  ∀ (env : Env) (s : State) (k : UnitId) (r : Byte) (rest : List Byte), s.phase = .collect k →
    (s.per.get k).rxq = r :: rest →
    controllerStep env s =
      .next { s with
        per := s.per.set k { s.per.get k with rxq := rest }
        resp := s.resp ++ [.byte r]
        cp := s.cp + 1
        phase := .ready }

/-- The model's choice for a read of the empty receive queue, which no run reaches (log 8; 91_not_in_source.md,
41_transaction.md): the answer is a byte drawn from the environment. -/
def Obligations.EmptyReceiveQueueGivesAFreeByte : Prop :=
  ∀ (env : Env) (s : State) (k : UnitId), s.phase = .collect k → (s.per.get k).rxq = [] →
    controllerStep env s =
      .next { s with
        resp := s.resp ++ [.byte (env.byte s.draws)]
        cp := s.cp + 1
        phase := .ready
        draws := s.draws + 1 }

/-- 10_state.md R40: the chip-select line under the two disciplines, and that it is undefined in every other case. -/
def Obligations.ChipSelectLineFollowsTheDiscipline : Prop :=
  ∀ (s : State) (k : UnitId),
    (∀ b x, (s.cfg.get k).configured = true → (s.cfg.get k).binding = b → b.hwcs = false →
      s.pin? b.pinCs = some x → x.func = .sio → x.oe = true → s.csLine? k = some x.out) ∧
    (∀ b x, (s.cfg.get k).configured = true → (s.cfg.get k).binding = b → b.hwcs = true →
      s.pin? b.pinCs = some x → x.func = .spi → s.csLine? k = some (decide ((s.per.get k).shift = none))) ∧
    (∀ level, s.csLine? k = some level → (s.cfg.get k).configured = true ∧
      ∃ b x, (s.cfg.get k).binding = b ∧ s.pin? b.pinCs = some x ∧
        (b.hwcs = false ∧ x.func = .sio ∧ x.oe = true ∨ b.hwcs = true ∧ x.func = .spi))

/-- R139, R133, R61 (d), R142 to R144: under the invariant and PeripheralCompletes(u), a TRANSFER on a configured unit
comes to its end: the response is the byte drawn for its own frame, the history gains exactly FrameStart and Frame with
that byte and the chip-select level of its discipline (0 under peripheral-automated, the pin's driven level under
software-toggled), cp advances by 1 in READY, and bindings, pins, registers and queues are as before. -/
def Obligations.TransferCompletesWhenThePeripheralDoes : Prop :=
  ∀ (env : Env) (s : State) (k : UnitId) (d : Byte) (b : Binding) (x : PinState) (w0 : Word) (rest : List Word),
    Inv s → PeripheralCompletes env k → s.phase = .ready → s.fault = none → s.refused = none →
    (s.cfg.get k).configured = true → (s.cfg.get k).binding = b → s.pin? b.pinCs = some x →
    s.cmd.drop s.cp = w0 :: rest → decode w0 rest = .ok (.transfer k.field d) →
    ∃ n turns, runUnder env n s =
      .next { s with
        resp := s.resp ++ [.byte (env.byte s.draws)]
        bus := s.bus ++ [.frameStart k d,
          .frame k d (env.byte s.draws) (if b.hwcs then false else x.out)]
        cp := s.cp + 1
        turns := turns
        draws := s.draws + 1 }

/-- R141: where the peripheral never takes its steps the controller stays in POLL for ever: after any number of steps the
state is the same but for the model's own count of scheduling choices (log 5). -/
def Obligations.PollNeverEndsWhenThePeripheralHangs : Prop :=
  ∀ (env : Env) (s : State) (k : UnitId) (d : Byte), PeripheralHangs env → s.phase = .poll k d →
    (s.reg.get k).busy = true → s.fault = none → s.refused = none →
    ∀ n, ∃ turns, runUnder env n s = .next { s with turns := turns }
end

