-- ==== Sys2Proof/Laws/Decode.lean ====
section
/-! SUPPORT. The laws of the decoder and the encoder: what a decoded word 0 says of its bits, and the cases of the
decoder. -/

namespace Sys2Proof

@[simp] theorem bits_toNat (v : Word) (lo len : Nat) : (bits v lo len).toNat = v.toNat / 2 ^ lo % 2 ^ len := by
  simp [bits, BitVec.extractLsb'_toNat, Nat.shiftRight_eq_div_pow]

theorem bits_eq_zero {v : Word} {lo len : Nat} : bits v lo len = 0 ↔ v.toNat / 2 ^ lo % 2 ^ len = 0 := by
  rw [← bits_toNat, BitVec.toNat_eq]
  simp

/-- The reserved bits from `lo` up are 0 exactly when the word is below `2 ^ lo`. -/
theorem bits_top_eq_zero {v : Word} {lo len : Nat} (h : lo + len = 32) : bits v lo len = 0 ↔ v.toNat < 2 ^ lo := by
  have hv : v.toNat < 2 ^ lo * 2 ^ len := by
    rw [← Nat.pow_add, h]; exact v.isLt
  have hlt : v.toNat / 2 ^ lo < 2 ^ len := Nat.div_lt_of_lt_mul hv
  rw [bits_eq_zero, Nat.mod_eq_of_lt hlt]
  exact Nat.div_eq_zero_iff_lt (Nat.two_pow_pos lo)

theorem opField_eq {w : Word} {n : Nat} (h : n < 16) : opField w = BitVec.ofNat 4 n ↔ w.toNat % 16 = n := by
  rw [BitVec.toNat_eq, opField, bits_toNat]
  simp [Nat.mod_eq_of_lt h]

theorem unitField_toNat (w : Word) : (unitField w).toNat = w.toNat / 16 % 16 := by
  simp [unitField]

/-- What a decoded command says of word 0 and the words after it: the inversion of the decoder. -/
theorem decode_ok {w0 : Word} {rest : List Word} {i : Instr} (h : decode w0 rest = .ok i) :
    (∃ w1 w2 tail, opField w0 = 0x1 ∧ rest = w1 :: w2 :: tail ∧ bits w0 17 15 = 0 ∧ i = decodeConfigure w0 w1 w2) ∨
    (opField w0 = 0x2 ∧ bits w0 8 24 = 0 ∧ (unitField w0).toNat < 2 ∧ i = .beginTxn (unitField w0)) ∨
    (opField w0 = 0x4 ∧ bits w0 8 24 = 0 ∧ (unitField w0).toNat < 2 ∧ i = .endTxn (unitField w0)) ∨
    (opField w0 = 0x3 ∧ bits w0 16 16 = 0 ∧ (unitField w0).toNat < 2 ∧
      i = .transfer (unitField w0) (byte1Field w0)) := by
  unfold decode at h
  dsimp only at h
  split at h
  · next h1 =>
    split at h
    · next w1 w2 tail =>
      split at h
      · cases h
      · next hr => exact .inl ⟨w1, w2, tail, h1, rfl, by simpa using hr, by cases h; rfl⟩
    · cases h
  · split at h
    · next h24 =>
      split at h
      · cases h
      · next hr =>
        split at h
        · cases h
        · next hu =>
          have hr' : bits w0 8 24 = 0 := by simpa using hr
          split at h
          · next h2 => exact .inr (.inl ⟨h2, hr', by omega, by cases h; rfl⟩)
          · next h2 => exact .inr (.inr (.inl ⟨by tauto, hr', by omega, by cases h; rfl⟩))
    · split at h
      · next h3 =>
        split at h
        · cases h
        · next hr =>
          split at h
          · cases h
          · next hu => exact .inr (.inr (.inr ⟨h3, by simpa using hr, by omega, by cases h; rfl⟩))
      · cases h

/-- More words after the two operand words change nothing. -/
theorem decode_append {w0 w1 w2 : Word} {rest : List Word} :
    decode w0 (w1 :: w2 :: rest) = decode w0 [w1, w2] := rfl

end Sys2Proof
end

