-- ==== Sys2Proof/Laws/State.lean ====
section
/-! SUPPORT. One lemma for each field of State and each update of it, all true by unfolding, so that no proof unfolds a
record update. -/

namespace Sys2Proof.Machine

/-! ### emit -/

@[simp] theorem State.emit_plat (s : State) (e : BusEvent) : (s.emit e).plat = s.plat := rfl
@[simp] theorem State.emit_cmd (s : State) (e : BusEvent) : (s.emit e).cmd = s.cmd := rfl
@[simp] theorem State.emit_cfg (s : State) (e : BusEvent) : (s.emit e).cfg = s.cfg := rfl
@[simp] theorem State.emit_reg (s : State) (e : BusEvent) : (s.emit e).reg = s.reg := rfl
@[simp] theorem State.emit_per (s : State) (e : BusEvent) : (s.emit e).per = s.per := rfl
@[simp] theorem State.emit_pins (s : State) (e : BusEvent) : (s.emit e).pins = s.pins := rfl
@[simp] theorem State.emit_cp (s : State) (e : BusEvent) : (s.emit e).cp = s.cp := rfl
@[simp] theorem State.emit_phase (s : State) (e : BusEvent) : (s.emit e).phase = s.phase := rfl
@[simp] theorem State.emit_resp (s : State) (e : BusEvent) : (s.emit e).resp = s.resp := rfl
@[simp] theorem State.emit_bus (s : State) (e : BusEvent) : (s.emit e).bus = s.bus ++ [e] := rfl
@[simp] theorem State.emit_fault (s : State) (e : BusEvent) : (s.emit e).fault = s.fault := rfl
@[simp] theorem State.emit_refused (s : State) (e : BusEvent) : (s.emit e).refused = s.refused := rfl
@[simp] theorem State.emit_turns (s : State) (e : BusEvent) : (s.emit e).turns = s.turns := rfl
@[simp] theorem State.emit_draws (s : State) (e : BusEvent) : (s.emit e).draws = s.draws := rfl

/-! ### respond -/

@[simp] theorem State.respond_plat (s : State) (r : Resp) : (s.respond r).plat = s.plat := rfl
@[simp] theorem State.respond_cmd (s : State) (r : Resp) : (s.respond r).cmd = s.cmd := rfl
@[simp] theorem State.respond_cfg (s : State) (r : Resp) : (s.respond r).cfg = s.cfg := rfl
@[simp] theorem State.respond_reg (s : State) (r : Resp) : (s.respond r).reg = s.reg := rfl
@[simp] theorem State.respond_per (s : State) (r : Resp) : (s.respond r).per = s.per := rfl
@[simp] theorem State.respond_pins (s : State) (r : Resp) : (s.respond r).pins = s.pins := rfl
@[simp] theorem State.respond_cp (s : State) (r : Resp) : (s.respond r).cp = s.cp := rfl
@[simp] theorem State.respond_phase (s : State) (r : Resp) : (s.respond r).phase = s.phase := rfl
@[simp] theorem State.respond_resp (s : State) (r : Resp) : (s.respond r).resp = s.resp ++ [r] := rfl
@[simp] theorem State.respond_bus (s : State) (r : Resp) : (s.respond r).bus = s.bus := rfl
@[simp] theorem State.respond_fault (s : State) (r : Resp) : (s.respond r).fault = s.fault := rfl
@[simp] theorem State.respond_refused (s : State) (r : Resp) : (s.respond r).refused = s.refused := rfl
@[simp] theorem State.respond_turns (s : State) (r : Resp) : (s.respond r).turns = s.turns := rfl
@[simp] theorem State.respond_draws (s : State) (r : Resp) : (s.respond r).draws = s.draws := rfl

/-! ### advance -/

@[simp] theorem State.advance_plat (s : State) (n : Nat) : (s.advance n).plat = s.plat := rfl
@[simp] theorem State.advance_cmd (s : State) (n : Nat) : (s.advance n).cmd = s.cmd := rfl
@[simp] theorem State.advance_cfg (s : State) (n : Nat) : (s.advance n).cfg = s.cfg := rfl
@[simp] theorem State.advance_reg (s : State) (n : Nat) : (s.advance n).reg = s.reg := rfl
@[simp] theorem State.advance_per (s : State) (n : Nat) : (s.advance n).per = s.per := rfl
@[simp] theorem State.advance_pins (s : State) (n : Nat) : (s.advance n).pins = s.pins := rfl
@[simp] theorem State.advance_cp (s : State) (n : Nat) : (s.advance n).cp = s.cp + n := rfl
@[simp] theorem State.advance_phase (s : State) (n : Nat) : (s.advance n).phase = s.phase := rfl
@[simp] theorem State.advance_resp (s : State) (n : Nat) : (s.advance n).resp = s.resp := rfl
@[simp] theorem State.advance_bus (s : State) (n : Nat) : (s.advance n).bus = s.bus := rfl
@[simp] theorem State.advance_fault (s : State) (n : Nat) : (s.advance n).fault = s.fault := rfl
@[simp] theorem State.advance_refused (s : State) (n : Nat) : (s.advance n).refused = s.refused := rfl
@[simp] theorem State.advance_turns (s : State) (n : Nat) : (s.advance n).turns = s.turns := rfl
@[simp] theorem State.advance_draws (s : State) (n : Nat) : (s.advance n).draws = s.draws := rfl

/-! ### setPhase -/

@[simp] theorem State.setPhase_plat (s : State) (p : Phase) : (s.setPhase p).plat = s.plat := rfl
@[simp] theorem State.setPhase_cmd (s : State) (p : Phase) : (s.setPhase p).cmd = s.cmd := rfl
@[simp] theorem State.setPhase_cfg (s : State) (p : Phase) : (s.setPhase p).cfg = s.cfg := rfl
@[simp] theorem State.setPhase_reg (s : State) (p : Phase) : (s.setPhase p).reg = s.reg := rfl
@[simp] theorem State.setPhase_per (s : State) (p : Phase) : (s.setPhase p).per = s.per := rfl
@[simp] theorem State.setPhase_pins (s : State) (p : Phase) : (s.setPhase p).pins = s.pins := rfl
@[simp] theorem State.setPhase_cp (s : State) (p : Phase) : (s.setPhase p).cp = s.cp := rfl
@[simp] theorem State.setPhase_phase (s : State) (p : Phase) : (s.setPhase p).phase = p := rfl
@[simp] theorem State.setPhase_resp (s : State) (p : Phase) : (s.setPhase p).resp = s.resp := rfl
@[simp] theorem State.setPhase_bus (s : State) (p : Phase) : (s.setPhase p).bus = s.bus := rfl
@[simp] theorem State.setPhase_fault (s : State) (p : Phase) : (s.setPhase p).fault = s.fault := rfl
@[simp] theorem State.setPhase_refused (s : State) (p : Phase) : (s.setPhase p).refused = s.refused := rfl
@[simp] theorem State.setPhase_turns (s : State) (p : Phase) : (s.setPhase p).turns = s.turns := rfl
@[simp] theorem State.setPhase_draws (s : State) (p : Phase) : (s.setPhase p).draws = s.draws := rfl

/-! ### setCfg -/

@[simp] theorem State.setCfg_plat (s : State) (u : UnitId) (c : UnitCfg) : (s.setCfg u c).plat = s.plat := rfl
@[simp] theorem State.setCfg_cmd (s : State) (u : UnitId) (c : UnitCfg) : (s.setCfg u c).cmd = s.cmd := rfl
@[simp] theorem State.setCfg_cfg (s : State) (u : UnitId) (c : UnitCfg) : (s.setCfg u c).cfg = s.cfg.set u c := rfl
@[simp] theorem State.setCfg_reg (s : State) (u : UnitId) (c : UnitCfg) : (s.setCfg u c).reg = s.reg := rfl
@[simp] theorem State.setCfg_per (s : State) (u : UnitId) (c : UnitCfg) : (s.setCfg u c).per = s.per := rfl
@[simp] theorem State.setCfg_pins (s : State) (u : UnitId) (c : UnitCfg) : (s.setCfg u c).pins = s.pins := rfl
@[simp] theorem State.setCfg_cp (s : State) (u : UnitId) (c : UnitCfg) : (s.setCfg u c).cp = s.cp := rfl
@[simp] theorem State.setCfg_phase (s : State) (u : UnitId) (c : UnitCfg) : (s.setCfg u c).phase = s.phase := rfl
@[simp] theorem State.setCfg_resp (s : State) (u : UnitId) (c : UnitCfg) : (s.setCfg u c).resp = s.resp := rfl
@[simp] theorem State.setCfg_bus (s : State) (u : UnitId) (c : UnitCfg) : (s.setCfg u c).bus = s.bus := rfl
@[simp] theorem State.setCfg_fault (s : State) (u : UnitId) (c : UnitCfg) : (s.setCfg u c).fault = s.fault := rfl
@[simp] theorem State.setCfg_refused (s : State) (u : UnitId) (c : UnitCfg) : (s.setCfg u c).refused = s.refused := rfl
@[simp] theorem State.setCfg_turns (s : State) (u : UnitId) (c : UnitCfg) : (s.setCfg u c).turns = s.turns := rfl
@[simp] theorem State.setCfg_draws (s : State) (u : UnitId) (c : UnitCfg) : (s.setCfg u c).draws = s.draws := rfl

/-! ### setReg -/

@[simp] theorem State.setReg_plat (s : State) (u : UnitId) (r : UnitRegs) : (s.setReg u r).plat = s.plat := rfl
@[simp] theorem State.setReg_cmd (s : State) (u : UnitId) (r : UnitRegs) : (s.setReg u r).cmd = s.cmd := rfl
@[simp] theorem State.setReg_cfg (s : State) (u : UnitId) (r : UnitRegs) : (s.setReg u r).cfg = s.cfg := rfl
@[simp] theorem State.setReg_reg (s : State) (u : UnitId) (r : UnitRegs) : (s.setReg u r).reg = s.reg.set u r := rfl
@[simp] theorem State.setReg_per (s : State) (u : UnitId) (r : UnitRegs) : (s.setReg u r).per = s.per := rfl
@[simp] theorem State.setReg_pins (s : State) (u : UnitId) (r : UnitRegs) : (s.setReg u r).pins = s.pins := rfl
@[simp] theorem State.setReg_cp (s : State) (u : UnitId) (r : UnitRegs) : (s.setReg u r).cp = s.cp := rfl
@[simp] theorem State.setReg_phase (s : State) (u : UnitId) (r : UnitRegs) : (s.setReg u r).phase = s.phase := rfl
@[simp] theorem State.setReg_resp (s : State) (u : UnitId) (r : UnitRegs) : (s.setReg u r).resp = s.resp := rfl
@[simp] theorem State.setReg_bus (s : State) (u : UnitId) (r : UnitRegs) : (s.setReg u r).bus = s.bus := rfl
@[simp] theorem State.setReg_fault (s : State) (u : UnitId) (r : UnitRegs) : (s.setReg u r).fault = s.fault := rfl
@[simp] theorem State.setReg_refused (s : State) (u : UnitId) (r : UnitRegs) : (s.setReg u r).refused = s.refused := rfl
@[simp] theorem State.setReg_turns (s : State) (u : UnitId) (r : UnitRegs) : (s.setReg u r).turns = s.turns := rfl
@[simp] theorem State.setReg_draws (s : State) (u : UnitId) (r : UnitRegs) : (s.setReg u r).draws = s.draws := rfl

/-! ### setPer -/

@[simp] theorem State.setPer_plat (s : State) (u : UnitId) (p : UnitPer) : (s.setPer u p).plat = s.plat := rfl
@[simp] theorem State.setPer_cmd (s : State) (u : UnitId) (p : UnitPer) : (s.setPer u p).cmd = s.cmd := rfl
@[simp] theorem State.setPer_cfg (s : State) (u : UnitId) (p : UnitPer) : (s.setPer u p).cfg = s.cfg := rfl
@[simp] theorem State.setPer_reg (s : State) (u : UnitId) (p : UnitPer) : (s.setPer u p).reg = s.reg := rfl
@[simp] theorem State.setPer_per (s : State) (u : UnitId) (p : UnitPer) : (s.setPer u p).per = s.per.set u p := rfl
@[simp] theorem State.setPer_pins (s : State) (u : UnitId) (p : UnitPer) : (s.setPer u p).pins = s.pins := rfl
@[simp] theorem State.setPer_cp (s : State) (u : UnitId) (p : UnitPer) : (s.setPer u p).cp = s.cp := rfl
@[simp] theorem State.setPer_phase (s : State) (u : UnitId) (p : UnitPer) : (s.setPer u p).phase = s.phase := rfl
@[simp] theorem State.setPer_resp (s : State) (u : UnitId) (p : UnitPer) : (s.setPer u p).resp = s.resp := rfl
@[simp] theorem State.setPer_bus (s : State) (u : UnitId) (p : UnitPer) : (s.setPer u p).bus = s.bus := rfl
@[simp] theorem State.setPer_fault (s : State) (u : UnitId) (p : UnitPer) : (s.setPer u p).fault = s.fault := rfl
@[simp] theorem State.setPer_refused (s : State) (u : UnitId) (p : UnitPer) : (s.setPer u p).refused = s.refused := rfl
@[simp] theorem State.setPer_turns (s : State) (u : UnitId) (p : UnitPer) : (s.setPer u p).turns = s.turns := rfl
@[simp] theorem State.setPer_draws (s : State) (u : UnitId) (p : UnitPer) : (s.setPer u p).draws = s.draws := rfl

/-! ### setBusy -/

@[simp] theorem State.setBusy_plat (s : State) (u : UnitId) (b : Bool) : (s.setBusy u b).plat = s.plat := rfl
@[simp] theorem State.setBusy_cmd (s : State) (u : UnitId) (b : Bool) : (s.setBusy u b).cmd = s.cmd := rfl
@[simp] theorem State.setBusy_cfg (s : State) (u : UnitId) (b : Bool) : (s.setBusy u b).cfg = s.cfg := rfl
@[simp] theorem State.setBusy_reg (s : State) (u : UnitId) (b : Bool) :
    (s.setBusy u b).reg = s.reg.set u { s.reg.get u with busy := b } := rfl
@[simp] theorem State.setBusy_per (s : State) (u : UnitId) (b : Bool) : (s.setBusy u b).per = s.per := rfl
@[simp] theorem State.setBusy_pins (s : State) (u : UnitId) (b : Bool) : (s.setBusy u b).pins = s.pins := rfl
@[simp] theorem State.setBusy_cp (s : State) (u : UnitId) (b : Bool) : (s.setBusy u b).cp = s.cp := rfl
@[simp] theorem State.setBusy_phase (s : State) (u : UnitId) (b : Bool) : (s.setBusy u b).phase = s.phase := rfl
@[simp] theorem State.setBusy_resp (s : State) (u : UnitId) (b : Bool) : (s.setBusy u b).resp = s.resp := rfl
@[simp] theorem State.setBusy_bus (s : State) (u : UnitId) (b : Bool) : (s.setBusy u b).bus = s.bus := rfl
@[simp] theorem State.setBusy_fault (s : State) (u : UnitId) (b : Bool) : (s.setBusy u b).fault = s.fault := rfl
@[simp] theorem State.setBusy_refused (s : State) (u : UnitId) (b : Bool) : (s.setBusy u b).refused = s.refused := rfl
@[simp] theorem State.setBusy_turns (s : State) (u : UnitId) (b : Bool) : (s.setBusy u b).turns = s.turns := rfl
@[simp] theorem State.setBusy_draws (s : State) (u : UnitId) (b : Bool) : (s.setBusy u b).draws = s.draws := rfl

/-! ### writeData -/

@[simp] theorem State.writeData_plat (s : State) (u : UnitId) (w : Word) : (s.writeData u w).plat = s.plat := rfl
@[simp] theorem State.writeData_cmd (s : State) (u : UnitId) (w : Word) : (s.writeData u w).cmd = s.cmd := rfl
@[simp] theorem State.writeData_cfg (s : State) (u : UnitId) (w : Word) : (s.writeData u w).cfg = s.cfg := rfl
@[simp] theorem State.writeData_reg (s : State) (u : UnitId) (w : Word) : (s.writeData u w).reg = s.reg := rfl
@[simp] theorem State.writeData_per (s : State) (u : UnitId) (w : Word) :
    (s.writeData u w).per = s.per.set u { s.per.get u with txq := (s.per.get u).txq ++ [w.setWidth 8] } := rfl
@[simp] theorem State.writeData_pins (s : State) (u : UnitId) (w : Word) : (s.writeData u w).pins = s.pins := rfl
@[simp] theorem State.writeData_cp (s : State) (u : UnitId) (w : Word) : (s.writeData u w).cp = s.cp := rfl
@[simp] theorem State.writeData_phase (s : State) (u : UnitId) (w : Word) : (s.writeData u w).phase = s.phase := rfl
@[simp] theorem State.writeData_resp (s : State) (u : UnitId) (w : Word) : (s.writeData u w).resp = s.resp := rfl
@[simp] theorem State.writeData_bus (s : State) (u : UnitId) (w : Word) : (s.writeData u w).bus = s.bus := rfl
@[simp] theorem State.writeData_fault (s : State) (u : UnitId) (w : Word) : (s.writeData u w).fault = s.fault := rfl
@[simp] theorem State.writeData_refused (s : State) (u : UnitId) (w : Word) :
    (s.writeData u w).refused = s.refused := rfl
@[simp] theorem State.writeData_turns (s : State) (u : UnitId) (w : Word) : (s.writeData u w).turns = s.turns := rfl
@[simp] theorem State.writeData_draws (s : State) (u : UnitId) (w : Word) : (s.writeData u w).draws = s.draws := rfl

/-! ### drawn -/

@[simp] theorem State.drawn_plat (s : State) : (s.drawn).plat = s.plat := rfl
@[simp] theorem State.drawn_cmd (s : State) : (s.drawn).cmd = s.cmd := rfl
@[simp] theorem State.drawn_cfg (s : State) : (s.drawn).cfg = s.cfg := rfl
@[simp] theorem State.drawn_reg (s : State) : (s.drawn).reg = s.reg := rfl
@[simp] theorem State.drawn_per (s : State) : (s.drawn).per = s.per := rfl
@[simp] theorem State.drawn_pins (s : State) : (s.drawn).pins = s.pins := rfl
@[simp] theorem State.drawn_cp (s : State) : (s.drawn).cp = s.cp := rfl
@[simp] theorem State.drawn_phase (s : State) : (s.drawn).phase = s.phase := rfl
@[simp] theorem State.drawn_resp (s : State) : (s.drawn).resp = s.resp := rfl
@[simp] theorem State.drawn_bus (s : State) : (s.drawn).bus = s.bus := rfl
@[simp] theorem State.drawn_fault (s : State) : (s.drawn).fault = s.fault := rfl
@[simp] theorem State.drawn_refused (s : State) : (s.drawn).refused = s.refused := rfl
@[simp] theorem State.drawn_turns (s : State) : (s.drawn).turns = s.turns := rfl
@[simp] theorem State.drawn_draws (s : State) : (s.drawn).draws = s.draws + 1 := rfl

/-! ### turnTaken -/

@[simp] theorem State.turnTaken_plat (s : State) : (s.turnTaken).plat = s.plat := rfl
@[simp] theorem State.turnTaken_cmd (s : State) : (s.turnTaken).cmd = s.cmd := rfl
@[simp] theorem State.turnTaken_cfg (s : State) : (s.turnTaken).cfg = s.cfg := rfl
@[simp] theorem State.turnTaken_reg (s : State) : (s.turnTaken).reg = s.reg := rfl
@[simp] theorem State.turnTaken_per (s : State) : (s.turnTaken).per = s.per := rfl
@[simp] theorem State.turnTaken_pins (s : State) : (s.turnTaken).pins = s.pins := rfl
@[simp] theorem State.turnTaken_cp (s : State) : (s.turnTaken).cp = s.cp := rfl
@[simp] theorem State.turnTaken_phase (s : State) : (s.turnTaken).phase = s.phase := rfl
@[simp] theorem State.turnTaken_resp (s : State) : (s.turnTaken).resp = s.resp := rfl
@[simp] theorem State.turnTaken_bus (s : State) : (s.turnTaken).bus = s.bus := rfl
@[simp] theorem State.turnTaken_fault (s : State) : (s.turnTaken).fault = s.fault := rfl
@[simp] theorem State.turnTaken_refused (s : State) : (s.turnTaken).refused = s.refused := rfl
@[simp] theorem State.turnTaken_turns (s : State) : (s.turnTaken).turns = s.turns + 1 := rfl
@[simp] theorem State.turnTaken_draws (s : State) : (s.turnTaken).draws = s.draws := rfl

/-! ### modifyPin -/

@[simp] theorem State.modifyPin_plat (s : State) (p : Byte) (f : PinState → PinState) :
    (s.modifyPin p f).plat = s.plat := rfl
@[simp] theorem State.modifyPin_cmd (s : State) (p : Byte) (f : PinState → PinState) :
    (s.modifyPin p f).cmd = s.cmd := rfl
@[simp] theorem State.modifyPin_cfg (s : State) (p : Byte) (f : PinState → PinState) :
    (s.modifyPin p f).cfg = s.cfg := rfl
@[simp] theorem State.modifyPin_reg (s : State) (p : Byte) (f : PinState → PinState) :
    (s.modifyPin p f).reg = s.reg := rfl
@[simp] theorem State.modifyPin_per (s : State) (p : Byte) (f : PinState → PinState) :
    (s.modifyPin p f).per = s.per := rfl
@[simp] theorem State.modifyPin_pins (s : State) (p : Byte) (f : PinState → PinState) :
    (s.modifyPin p f).pins = s.pins.modify p.toNat f := rfl
@[simp] theorem State.modifyPin_cp (s : State) (p : Byte) (f : PinState → PinState) : (s.modifyPin p f).cp = s.cp := rfl
@[simp] theorem State.modifyPin_phase (s : State) (p : Byte) (f : PinState → PinState) :
    (s.modifyPin p f).phase = s.phase := rfl
@[simp] theorem State.modifyPin_resp (s : State) (p : Byte) (f : PinState → PinState) :
    (s.modifyPin p f).resp = s.resp := rfl
@[simp] theorem State.modifyPin_bus (s : State) (p : Byte) (f : PinState → PinState) :
    (s.modifyPin p f).bus = s.bus := rfl
@[simp] theorem State.modifyPin_fault (s : State) (p : Byte) (f : PinState → PinState) :
    (s.modifyPin p f).fault = s.fault := rfl
@[simp] theorem State.modifyPin_refused (s : State) (p : Byte) (f : PinState → PinState) :
    (s.modifyPin p f).refused = s.refused := rfl
@[simp] theorem State.modifyPin_turns (s : State) (p : Byte) (f : PinState → PinState) :
    (s.modifyPin p f).turns = s.turns := rfl
@[simp] theorem State.modifyPin_draws (s : State) (p : Byte) (f : PinState → PinState) :
    (s.modifyPin p f).draws = s.draws := rfl

/-! ### routePin -/

@[simp] theorem State.routePin_plat (s : State) (p : Byte) (f : PinFunc) : (s.routePin p f).plat = s.plat := rfl
@[simp] theorem State.routePin_cmd (s : State) (p : Byte) (f : PinFunc) : (s.routePin p f).cmd = s.cmd := rfl
@[simp] theorem State.routePin_cfg (s : State) (p : Byte) (f : PinFunc) : (s.routePin p f).cfg = s.cfg := rfl
@[simp] theorem State.routePin_reg (s : State) (p : Byte) (f : PinFunc) : (s.routePin p f).reg = s.reg := rfl
@[simp] theorem State.routePin_per (s : State) (p : Byte) (f : PinFunc) : (s.routePin p f).per = s.per := rfl
@[simp] theorem State.routePin_pins (s : State) (p : Byte) (f : PinFunc) :
    (s.routePin p f).pins = s.pins.modify p.toNat (fun x => { x with func := f }) := rfl
@[simp] theorem State.routePin_cp (s : State) (p : Byte) (f : PinFunc) : (s.routePin p f).cp = s.cp := rfl
@[simp] theorem State.routePin_phase (s : State) (p : Byte) (f : PinFunc) : (s.routePin p f).phase = s.phase := rfl
@[simp] theorem State.routePin_resp (s : State) (p : Byte) (f : PinFunc) : (s.routePin p f).resp = s.resp := rfl
@[simp] theorem State.routePin_bus (s : State) (p : Byte) (f : PinFunc) :
    (s.routePin p f).bus = s.bus ++ [.mux p f] := rfl
@[simp] theorem State.routePin_fault (s : State) (p : Byte) (f : PinFunc) : (s.routePin p f).fault = s.fault := rfl
@[simp] theorem State.routePin_refused (s : State) (p : Byte) (f : PinFunc) :
    (s.routePin p f).refused = s.refused := rfl
@[simp] theorem State.routePin_turns (s : State) (p : Byte) (f : PinFunc) : (s.routePin p f).turns = s.turns := rfl
@[simp] theorem State.routePin_draws (s : State) (p : Byte) (f : PinFunc) : (s.routePin p f).draws = s.draws := rfl

/-! ### driveCs -/

@[simp] theorem State.driveCs_plat (s : State) (u : UnitId) (p : Byte) (b : Bool) :
    (s.driveCs u p b).plat = s.plat := rfl
@[simp] theorem State.driveCs_cmd (s : State) (u : UnitId) (p : Byte) (b : Bool) : (s.driveCs u p b).cmd = s.cmd := rfl
@[simp] theorem State.driveCs_cfg (s : State) (u : UnitId) (p : Byte) (b : Bool) : (s.driveCs u p b).cfg = s.cfg := rfl
@[simp] theorem State.driveCs_reg (s : State) (u : UnitId) (p : Byte) (b : Bool) : (s.driveCs u p b).reg = s.reg := rfl
@[simp] theorem State.driveCs_per (s : State) (u : UnitId) (p : Byte) (b : Bool) : (s.driveCs u p b).per = s.per := rfl
@[simp] theorem State.driveCs_pins (s : State) (u : UnitId) (p : Byte) (b : Bool) :
    (s.driveCs u p b).pins = s.pins.modify p.toNat (fun x => { x with out := b }) := rfl
@[simp] theorem State.driveCs_cp (s : State) (u : UnitId) (p : Byte) (b : Bool) : (s.driveCs u p b).cp = s.cp := rfl
@[simp] theorem State.driveCs_phase (s : State) (u : UnitId) (p : Byte) (b : Bool) :
    (s.driveCs u p b).phase = s.phase := rfl
@[simp] theorem State.driveCs_resp (s : State) (u : UnitId) (p : Byte) (b : Bool) :
    (s.driveCs u p b).resp = s.resp := rfl
@[simp] theorem State.driveCs_bus (s : State) (u : UnitId) (p : Byte) (b : Bool) :
    (s.driveCs u p b).bus = s.bus ++ [.csDrive u p b] := rfl
@[simp] theorem State.driveCs_fault (s : State) (u : UnitId) (p : Byte) (b : Bool) :
    (s.driveCs u p b).fault = s.fault := rfl
@[simp] theorem State.driveCs_refused (s : State) (u : UnitId) (p : Byte) (b : Bool) :
    (s.driveCs u p b).refused = s.refused := rfl
@[simp] theorem State.driveCs_turns (s : State) (u : UnitId) (p : Byte) (b : Bool) :
    (s.driveCs u p b).turns = s.turns := rfl
@[simp] theorem State.driveCs_draws (s : State) (u : UnitId) (p : Byte) (b : Bool) :
    (s.driveCs u p b).draws = s.draws := rfl

/-! ### upgradePad -/

@[simp] theorem State.upgradePad_plat (s : State) (p : Byte) : (s.upgradePad p).plat = s.plat := rfl
@[simp] theorem State.upgradePad_cmd (s : State) (p : Byte) : (s.upgradePad p).cmd = s.cmd := rfl
@[simp] theorem State.upgradePad_cfg (s : State) (p : Byte) : (s.upgradePad p).cfg = s.cfg := rfl
@[simp] theorem State.upgradePad_reg (s : State) (p : Byte) : (s.upgradePad p).reg = s.reg := rfl
@[simp] theorem State.upgradePad_per (s : State) (p : Byte) : (s.upgradePad p).per = s.per := rfl
@[simp] theorem State.upgradePad_pins (s : State) (p : Byte) :
    (s.upgradePad p).pins = s.pins.modify p.toNat (fun x => { x with drive := .high, slew := .fast }) := rfl
@[simp] theorem State.upgradePad_cp (s : State) (p : Byte) : (s.upgradePad p).cp = s.cp := rfl
@[simp] theorem State.upgradePad_phase (s : State) (p : Byte) : (s.upgradePad p).phase = s.phase := rfl
@[simp] theorem State.upgradePad_resp (s : State) (p : Byte) : (s.upgradePad p).resp = s.resp := rfl
@[simp] theorem State.upgradePad_bus (s : State) (p : Byte) : (s.upgradePad p).bus = s.bus ++ [.padUpgrade p] := rfl
@[simp] theorem State.upgradePad_fault (s : State) (p : Byte) : (s.upgradePad p).fault = s.fault := rfl
@[simp] theorem State.upgradePad_refused (s : State) (p : Byte) : (s.upgradePad p).refused = s.refused := rfl
@[simp] theorem State.upgradePad_turns (s : State) (p : Byte) : (s.upgradePad p).turns = s.turns := rfl
@[simp] theorem State.upgradePad_draws (s : State) (p : Byte) : (s.upgradePad p).draws = s.draws := rfl

/-! ### raiseIllegal -/

@[simp] theorem State.raiseIllegal_plat (s : State) (w : Word) (c : Cause) : (s.raiseIllegal w c).plat = s.plat := rfl
@[simp] theorem State.raiseIllegal_cmd (s : State) (w : Word) (c : Cause) : (s.raiseIllegal w c).cmd = s.cmd := rfl
@[simp] theorem State.raiseIllegal_cfg (s : State) (w : Word) (c : Cause) : (s.raiseIllegal w c).cfg = s.cfg := rfl
@[simp] theorem State.raiseIllegal_reg (s : State) (w : Word) (c : Cause) : (s.raiseIllegal w c).reg = s.reg := rfl
@[simp] theorem State.raiseIllegal_per (s : State) (w : Word) (c : Cause) : (s.raiseIllegal w c).per = s.per := rfl
@[simp] theorem State.raiseIllegal_pins (s : State) (w : Word) (c : Cause) : (s.raiseIllegal w c).pins = s.pins := rfl
@[simp] theorem State.raiseIllegal_cp (s : State) (w : Word) (c : Cause) : (s.raiseIllegal w c).cp = s.cp := rfl
@[simp] theorem State.raiseIllegal_phase (s : State) (w : Word) (c : Cause) :
    (s.raiseIllegal w c).phase = s.phase := rfl
@[simp] theorem State.raiseIllegal_resp (s : State) (w : Word) (c : Cause) : (s.raiseIllegal w c).resp = s.resp := rfl
@[simp] theorem State.raiseIllegal_bus (s : State) (w : Word) (c : Cause) : (s.raiseIllegal w c).bus = s.bus := rfl
@[simp] theorem State.raiseIllegal_fault (s : State) (w : Word) (c : Cause) :
    (s.raiseIllegal w c).fault = some { cp := s.cp, word := w, cause := c } := rfl
@[simp] theorem State.raiseIllegal_refused (s : State) (w : Word) (c : Cause) :
    (s.raiseIllegal w c).refused = s.refused := rfl
@[simp] theorem State.raiseIllegal_turns (s : State) (w : Word) (c : Cause) :
    (s.raiseIllegal w c).turns = s.turns := rfl
@[simp] theorem State.raiseIllegal_draws (s : State) (w : Word) (c : Cause) :
    (s.raiseIllegal w c).draws = s.draws := rfl

/-! ### refuseDivisor -/

@[simp] theorem State.refuseDivisor_plat (s : State) : (s.refuseDivisor).plat = s.plat := rfl
@[simp] theorem State.refuseDivisor_cmd (s : State) : (s.refuseDivisor).cmd = s.cmd := rfl
@[simp] theorem State.refuseDivisor_cfg (s : State) : (s.refuseDivisor).cfg = s.cfg := rfl
@[simp] theorem State.refuseDivisor_reg (s : State) : (s.refuseDivisor).reg = s.reg := rfl
@[simp] theorem State.refuseDivisor_per (s : State) : (s.refuseDivisor).per = s.per := rfl
@[simp] theorem State.refuseDivisor_pins (s : State) : (s.refuseDivisor).pins = s.pins := rfl
@[simp] theorem State.refuseDivisor_cp (s : State) : (s.refuseDivisor).cp = s.cp := rfl
@[simp] theorem State.refuseDivisor_phase (s : State) : (s.refuseDivisor).phase = s.phase := rfl
@[simp] theorem State.refuseDivisor_resp (s : State) : (s.refuseDivisor).resp = s.resp := rfl
@[simp] theorem State.refuseDivisor_bus (s : State) : (s.refuseDivisor).bus = s.bus := rfl
@[simp] theorem State.refuseDivisor_fault (s : State) : (s.refuseDivisor).fault = s.fault := rfl
@[simp] theorem State.refuseDivisor_refused (s : State) : (s.refuseDivisor).refused = some { cp := s.cp } := rfl
@[simp] theorem State.refuseDivisor_turns (s : State) : (s.refuseDivisor).turns = s.turns := rfl
@[simp] theorem State.refuseDivisor_draws (s : State) : (s.refuseDivisor).draws = s.draws := rfl

/-! ### loadStream -/

@[simp] theorem State.loadStream_plat (s : State) (ws : List Word) : (s.loadStream ws).plat = s.plat := rfl
@[simp] theorem State.loadStream_cmd (s : State) (ws : List Word) : (s.loadStream ws).cmd = ws := rfl
@[simp] theorem State.loadStream_cfg (s : State) (ws : List Word) : (s.loadStream ws).cfg = s.cfg := rfl
@[simp] theorem State.loadStream_reg (s : State) (ws : List Word) : (s.loadStream ws).reg = s.reg := rfl
@[simp] theorem State.loadStream_per (s : State) (ws : List Word) : (s.loadStream ws).per = s.per := rfl
@[simp] theorem State.loadStream_pins (s : State) (ws : List Word) : (s.loadStream ws).pins = s.pins := rfl
@[simp] theorem State.loadStream_cp (s : State) (ws : List Word) : (s.loadStream ws).cp = s.cp := rfl
@[simp] theorem State.loadStream_phase (s : State) (ws : List Word) : (s.loadStream ws).phase = s.phase := rfl
@[simp] theorem State.loadStream_resp (s : State) (ws : List Word) : (s.loadStream ws).resp = s.resp := rfl
@[simp] theorem State.loadStream_bus (s : State) (ws : List Word) : (s.loadStream ws).bus = s.bus := rfl
@[simp] theorem State.loadStream_fault (s : State) (ws : List Word) : (s.loadStream ws).fault = s.fault := rfl
@[simp] theorem State.loadStream_refused (s : State) (ws : List Word) : (s.loadStream ws).refused = s.refused := rfl
@[simp] theorem State.loadStream_turns (s : State) (ws : List Word) : (s.loadStream ws).turns = s.turns := rfl
@[simp] theorem State.loadStream_draws (s : State) (ws : List Word) : (s.loadStream ws).draws = s.draws := rfl

/-! ### enableCsOutput -/

theorem State.enableCsOutput_of_pin {s : State} {u : UnitId} {p : Byte} {x : PinState} (h : s.pin? p = some x) :
    s.enableCsOutput u p = (s.modifyPin p fun x => { x with oe := true }).emit (.csDrive u p x.out) := by
  simp [State.enableCsOutput, h]

@[simp] theorem State.enableCsOutput_plat (s : State) (u : UnitId) (p : Byte) :
    (s.enableCsOutput u p).plat = s.plat := by
  unfold State.enableCsOutput; split <;> rfl
@[simp] theorem State.enableCsOutput_cmd (s : State) (u : UnitId) (p : Byte) :
    (s.enableCsOutput u p).cmd = s.cmd := by
  unfold State.enableCsOutput; split <;> rfl
@[simp] theorem State.enableCsOutput_cfg (s : State) (u : UnitId) (p : Byte) :
    (s.enableCsOutput u p).cfg = s.cfg := by
  unfold State.enableCsOutput; split <;> rfl
@[simp] theorem State.enableCsOutput_reg (s : State) (u : UnitId) (p : Byte) :
    (s.enableCsOutput u p).reg = s.reg := by
  unfold State.enableCsOutput; split <;> rfl
@[simp] theorem State.enableCsOutput_per (s : State) (u : UnitId) (p : Byte) :
    (s.enableCsOutput u p).per = s.per := by
  unfold State.enableCsOutput; split <;> rfl
@[simp] theorem State.enableCsOutput_cp (s : State) (u : UnitId) (p : Byte) :
    (s.enableCsOutput u p).cp = s.cp := by
  unfold State.enableCsOutput; split <;> rfl
@[simp] theorem State.enableCsOutput_phase (s : State) (u : UnitId) (p : Byte) :
    (s.enableCsOutput u p).phase = s.phase := by
  unfold State.enableCsOutput; split <;> rfl
@[simp] theorem State.enableCsOutput_resp (s : State) (u : UnitId) (p : Byte) :
    (s.enableCsOutput u p).resp = s.resp := by
  unfold State.enableCsOutput; split <;> rfl
@[simp] theorem State.enableCsOutput_fault (s : State) (u : UnitId) (p : Byte) :
    (s.enableCsOutput u p).fault = s.fault := by
  unfold State.enableCsOutput; split <;> rfl
@[simp] theorem State.enableCsOutput_refused (s : State) (u : UnitId) (p : Byte) :
    (s.enableCsOutput u p).refused = s.refused := by
  unfold State.enableCsOutput; split <;> rfl
@[simp] theorem State.enableCsOutput_turns (s : State) (u : UnitId) (p : Byte) :
    (s.enableCsOutput u p).turns = s.turns := by
  unfold State.enableCsOutput; split <;> rfl
@[simp] theorem State.enableCsOutput_draws (s : State) (u : UnitId) (p : Byte) :
    (s.enableCsOutput u p).draws = s.draws := by
  unfold State.enableCsOutput; split <;> rfl

/-- The pins after the output is turned on, the pin existing or not. -/
@[simp] theorem State.enableCsOutput_pins (s : State) (u : UnitId) (p : Byte) :
    (s.enableCsOutput u p).pins = s.pins.modify p.toNat (fun x => { x with oe := true }) := by
  unfold State.enableCsOutput
  split
  · rfl
  · next h =>
    rw [List.modify_eq_self]
    simpa [State.pin?] using h

end Sys2Proof.Machine
end

