-- ==== Sys2Proof/Laws/Units.lean ====
section
/-! SUPPORT. The laws of per-unit data, of the unit field, and of the pin list. -/

namespace Sys2Proof

variable {α : Type}

@[simp] theorem Units.get_set_self (x : Units α) (u : UnitId) (a : α) : (x.set u a).get u = a := by
  cases u <;> rfl

theorem Units.get_set_of_ne (x : Units α) {u v : UnitId} (a : α) (h : v ≠ u) : (x.set u a).get v = x.get v := by
  cases u <;> cases v <;> first | rfl | exact absurd rfl h

theorem Units.get_set (x : Units α) (u v : UnitId) (a : α) :
    (x.set u a).get v = if v = u then a else x.get v := by
  cases u <;> cases v <;> rfl

@[simp] theorem Units.set_set (x : Units α) (u : UnitId) (a b : α) : (x.set u a).set u b = x.set u b := by
  cases u <;> rfl

@[simp] theorem Units.set_get (x : Units α) (u : UnitId) : x.set u (x.get u) = x := by
  cases u <;> rfl

theorem Units.set_comm (x : Units α) {u v : UnitId} (a b : α) (h : u ≠ v) :
    (x.set u a).set v b = (x.set v b).set u a := by
  cases u <;> cases v <;> first | rfl | exact absurd rfl h

theorem Units.ext_get {x y : Units α} (h : ∀ u, x.get u = y.get u) : x = y := by
  cases x; cases y
  have h0 := h .unit0
  have h1 := h .unit1
  simp only [Units.get] at h0 h1
  rw [h0, h1]

@[simp] theorem UnitId.other_ne (u : UnitId) : u.other ≠ u := by cases u <;> decide

@[simp] theorem UnitId.ne_other (u : UnitId) : u ≠ u.other := by cases u <;> decide

@[simp] theorem UnitId.other_other (u : UnitId) : u.other.other = u := by cases u <;> rfl

theorem UnitId.eq_or_eq_other (u v : UnitId) : v = u ∨ v = u.other := by
  cases u <;> cases v <;> simp [UnitId.other]

@[simp] theorem Units.get_set_other (x : Units α) (u : UnitId) (a : α) : (x.set u a).get u.other = x.get u.other :=
  x.get_set_of_ne a u.other_ne

@[simp] theorem unitOf_field (k : UnitId) : unitOf k.field = some k := by cases k <;> rfl

/-- A unit field names unit `k` exactly when it is `k`'s number. -/
theorem unitOf_eq_some {u : BitVec 4} {k : UnitId} : unitOf u = some k ↔ u = k.field := by
  constructor
  · intro h
    unfold unitOf at h
    split at h
    · cases h; assumption
    · split at h
      · cases h; assumption
      · cases h
  · rintro rfl; exact unitOf_field k

theorem unitOf_eq_none {u : BitVec 4} : unitOf u = none ↔ 2 ≤ u.toNat := by
  constructor
  · intro h
    by_contra hu
    have : u = 0 ∨ u = 1 := by
      rcases (by omega : u.toNat = 0 ∨ u.toNat = 1) with h0 | h1
      · exact .inl (BitVec.eq_of_toNat_eq h0)
      · exact .inr (BitVec.eq_of_toNat_eq h1)
    rcases this with rfl | rfl <;> simp [unitOf] at h
  · intro h
    have h0 : u ≠ 0 := by rintro rfl; simp at h
    have h1 : u ≠ 1 := by rintro rfl; simp at h
    rw [unitOf, if_neg h0, if_neg h1]

namespace Machine

@[simp] theorem State.nPins_modifyPin (s : State) (p : Byte) (f : PinState → PinState) :
    (s.modifyPin p f).nPins = s.nPins := by
  simp [State.nPins, State.modifyPin]

/-- Every pin after a write of one pin. -/
theorem State.pin?_modifyPin (s : State) (p q : Byte) (f : PinState → PinState) :
    (s.modifyPin p f).pin? q = (s.pin? q).map fun x => if q = p then f x else x := by
  have hpq : (p.toNat = q.toNat) ↔ q = p := by
    rw [eq_comm, BitVec.toNat_inj]
  unfold State.pin? State.modifyPin
  simp only [List.getElem?_modify, hpq]
  rfl

theorem State.pin?_isSome {s : State} {p : Byte} : (s.pin? p).isSome = true ↔ p.toNat < s.nPins := by
  simp [State.pin?, State.nPins]

theorem State.exists_pin {s : State} {p : Byte} (h : p.toNat < s.nPins) : ∃ x, s.pin? p = some x := by
  simpa [Option.isSome_iff_exists] using State.pin?_isSome.mpr h

/-- What `InRole(u, r, p)` says. -/
theorem State.inRole_eq {s : State} {u : UnitId} {r : Role} {p : Byte} :
    s.inRole u r p = true ↔ p ∈ (s.plat.pinmap.get u).get r ∧ p.toNat < s.nPins := by
  simp [State.inRole]

/-- What validity of a CONFIGURE says of its unit, mode and pins. -/
theorem State.valid_eq {s : State} {u : BitVec 4} {sck tx rx cs : Byte} {mode : BitVec 8} :
    s.valid u sck tx rx cs mode = true ↔
      ∃ k, unitOf u = some k ∧ mode.toNat ≤ 3 ∧ s.inRole k .sck sck = true ∧ s.inRole k .tx tx = true ∧
        s.inRole k .rx rx = true ∧ s.inRole k .cs cs = true := by
  unfold State.valid
  split <;> rename_i h
  · simp [h]
  · simp only [h, Bool.and_eq_true, decide_eq_true_eq, Option.some.injEq, and_assoc]
    exact ⟨fun hv => ⟨_, rfl, hv⟩, by rintro ⟨k, rfl, hv⟩; exact hv⟩

end Machine

end Sys2Proof
end

