-- ==== Sys2Proof/Laws/Ops.lean ====
section
/-! SUPPORT. What the shared operations can do, said once: the commit of CONFIGURE, the chip-select toggle, the queue
accesses, the controller's and the peripheral's steps. -/

namespace Sys2Proof.Machine

/-! ## The binding -/

/-- A written binding is the one of a configured unit (10_state.md R44). -/
theorem State.binding?_eq_some {s : State} {k : UnitId} {b : Binding} :
    s.binding? k = some b ↔ (s.cfg.get k).configured = true ∧ (s.cfg.get k).binding = b := by
  unfold State.binding?; split <;> simp_all

/-- The binding of an Unconfigured unit is unwritten (10_state.md R44). -/
theorem State.binding?_eq_none {s : State} {k : UnitId} :
    s.binding? k = none ↔ (s.cfg.get k).configured = false := by
  unfold State.binding?; split <;> simp_all

/-! ## The commit of CONFIGURE -/

section Commit

variable (a : CommitArgs) (s : State)

@[simp] theorem commit_plat : (commit a s).plat = s.plat := by
  unfold commit commitBinding commitPads commitCsPin commitDataPins commitEnable commitRegisters
  split <;> split <;> simp

@[simp] theorem commit_cmd : (commit a s).cmd = s.cmd := by
  unfold commit commitBinding commitPads commitCsPin commitDataPins commitEnable commitRegisters
  split <;> split <;> simp

@[simp] theorem commit_per : (commit a s).per = s.per := by
  unfold commit commitBinding commitPads commitCsPin commitDataPins commitEnable commitRegisters
  split <;> split <;> simp

@[simp] theorem commit_cp : (commit a s).cp = s.cp := by
  unfold commit commitBinding commitPads commitCsPin commitDataPins commitEnable commitRegisters
  split <;> split <;> simp

@[simp] theorem commit_phase : (commit a s).phase = s.phase := by
  unfold commit commitBinding commitPads commitCsPin commitDataPins commitEnable commitRegisters
  split <;> split <;> simp

@[simp] theorem commit_resp : (commit a s).resp = s.resp := by
  unfold commit commitBinding commitPads commitCsPin commitDataPins commitEnable commitRegisters
  split <;> split <;> simp

@[simp] theorem commit_fault : (commit a s).fault = s.fault := by
  unfold commit commitBinding commitPads commitCsPin commitDataPins commitEnable commitRegisters
  split <;> split <;> simp

@[simp] theorem commit_refused : (commit a s).refused = s.refused := by
  unfold commit commitBinding commitPads commitCsPin commitDataPins commitEnable commitRegisters
  split <;> split <;> simp

@[simp] theorem commit_turns : (commit a s).turns = s.turns := by
  unfold commit commitBinding commitPads commitCsPin commitDataPins commitEnable commitRegisters
  split <;> split <;> simp

@[simp] theorem commit_draws : (commit a s).draws = s.draws := by
  unfold commit commitBinding commitPads commitCsPin commitDataPins commitEnable commitRegisters
  split <;> split <;> simp

/-- The binding the commit writes. -/
def CommitArgs.binding (a : CommitArgs) : Binding :=
  { freq := BitVec.ofNat 32 a.freq, mode := a.mode, hwcs := a.hwcs
    pinSck := a.sck, pinTx := a.tx, pinRx := a.rx, pinCs := a.cs }

theorem commit_cfg : (commit a s).cfg = s.cfg.set a.unit { configured := true, binding := a.binding } := by
  unfold commit commitBinding commitPads commitCsPin commitDataPins commitEnable commitRegisters
  split <;> split <;> simp [CommitArgs.binding]

theorem commit_reg : (commit a s).reg = s.reg.set a.unit
    { s.reg.get a.unit with
      ctrl := (s.reg.get a.unit).ctrl.program (cpolOf a.mode) (cphaOf a.mode) a.div.scaleRate
      ctrl1 := (s.reg.get a.unit).ctrl1.setEnable
      prescale := a.div.prescale } := by
  unfold commit commitBinding commitPads commitCsPin commitDataPins commitEnable commitRegisters
  split <;> split <;> simp

@[simp] theorem commit_nPins : (commit a s).nPins = s.nPins := by
  unfold commit commitBinding commitPads commitCsPin commitDataPins commitEnable commitRegisters State.nPins
  split <;> split <;> simp

end Commit

/-! ### Pins and events, step by step -/

@[simp] theorem State.pin?_emit (s : State) (e : BusEvent) (q : Byte) : (s.emit e).pin? q = s.pin? q := rfl

@[simp] theorem State.pin?_setReg (s : State) (u : UnitId) (r : UnitRegs) (q : Byte) :
    (s.setReg u r).pin? q = s.pin? q := rfl

@[simp] theorem State.pin?_setCfg (s : State) (u : UnitId) (c : UnitCfg) (q : Byte) :
    (s.setCfg u c).pin? q = s.pin? q := rfl

theorem State.pin?_routePin (s : State) (p q : Byte) (f : PinFunc) :
    (s.routePin p f).pin? q = (s.pin? q).map fun x => if q = p then { x with func := f } else x :=
  s.pin?_modifyPin p q _

theorem State.pin?_driveCs (s : State) (u : UnitId) (p q : Byte) (b : Bool) :
    (s.driveCs u p b).pin? q = (s.pin? q).map fun x => if q = p then { x with out := b } else x :=
  s.pin?_modifyPin p q _

theorem State.pin?_upgradePad (s : State) (p q : Byte) :
    (s.upgradePad p).pin? q =
      (s.pin? q).map fun x => if q = p then { x with drive := .high, slew := .fast } else x :=
  s.pin?_modifyPin p q _

theorem State.pin?_enableCsOutput (s : State) (u : UnitId) (p q : Byte) :
    (s.enableCsOutput u p).pin? q = (s.pin? q).map fun x => if q = p then { x with oe := true } else x := by
  cases h : s.pin? p with
  | some x => rw [State.enableCsOutput_of_pin h, State.pin?_emit, State.pin?_modifyPin]
  | none =>
    have hs : s.enableCsOutput u p = s := by simp [State.enableCsOutput, h]
    rw [hs]
    by_cases hq : q = p
    · subst hq; simp [h]
    · simp [hq]

/-- The event of turning the output on, of an existing pin. -/
theorem State.enableCsOutput_bus (s : State) (u : UnitId) (p : Byte) :
    (s.enableCsOutput u p).bus = s.bus ++ (match s.pin? p with | some x => [.csDrive u p x.out] | none => []) := by
  unfold State.enableCsOutput
  cases h : s.pin? p <;> simp

/-- The pins after a commit depend on the pins before it alone. -/
theorem commit_pins_congr (a : CommitArgs) {s t : State} (h : s.pins = t.pins) :
    (commit a s).pins = (commit a t).pins := by
  unfold commit commitBinding commitPads commitCsPin commitDataPins commitEnable commitRegisters
  split <;> split <;>
    simp [State.routePin, State.modifyPin, State.emit, State.driveCs, State.upgradePad, State.setReg, State.setCfg,
      State.enableCsOutput_pins, h]

/-- The events of a commit depend on the pins and the events before it alone. -/
theorem commit_bus_congr (a : CommitArgs) {s t : State} (h : s.pins = t.pins) (hb : s.bus = t.bus) :
    (commit a s).bus = (commit a t).bus := by
  unfold commit commitBinding commitPads commitCsPin commitDataPins commitEnable commitRegisters
  split <;> split <;>
    simp [State.routePin, State.modifyPin, State.emit, State.driveCs, State.upgradePad, State.setReg, State.setCfg,
      State.enableCsOutput_bus, State.pin?, h, hb]

/-- What a commit makes of pin `q`: its writes of the pin, in their order. -/
def CommitArgs.pinAfter (a : CommitArgs) (q : Byte) (x0 : PinState) : PinState :=
  let x1 : PinState := if q = a.sck then { x0 with func := .spi } else x0
  let x2 : PinState := if q = a.tx then { x1 with func := .spi } else x1
  let x3 : PinState := if q = a.rx then { x2 with func := .spi } else x2
  let x4 : PinState :=
    if q = a.cs then
      if a.hwcs then { x3 with func := .spi } else { x3 with func := .sio, oe := true, out := true }
    else x3
  let x5 : PinState :=
    if Config.fFast ≤ a.freq ∧ q = a.sck then { x4 with drive := .high, slew := .fast } else x4
  if Config.fFast ≤ a.freq ∧ q = a.tx then { x5 with drive := .high, slew := .fast } else x5

/-- Every pin after a commit. -/
theorem commit_pin? (a : CommitArgs) (s : State) (q : Byte) :
    (commit a s).pin? q = (s.pin? q).map (a.pinAfter q) := by
  have hcs : ∀ t : State, (commitCsPin a t).pin? q = (t.pin? q).map fun x =>
      if q = a.cs then
        if a.hwcs then { x with func := .spi } else { x with func := .sio, oe := true, out := true }
      else x := by
    intro t
    unfold commitCsPin
    by_cases hq : q = a.cs <;> split <;>
      simp [*, State.pin?_routePin, State.pin?_driveCs, State.pin?_enableCsOutput, Option.map_map,
        Function.comp_def, Config.csIdle]
  have hpads : ∀ t : State, (commitPads a t).pin? q = (t.pin? q).map fun x =>
      let x5 : PinState :=
        if Config.fFast ≤ a.freq ∧ q = a.sck then { x with drive := .high, slew := .fast } else x
      if Config.fFast ≤ a.freq ∧ q = a.tx then { x5 with drive := .high, slew := .fast } else x5 := by
    intro t
    unfold commitPads
    split <;> rename_i h <;> simp [h, State.pin?_upgradePad, Option.map_map, Function.comp_def]
  simp only [commit, commitBinding, commitEnable, commitRegisters, commitDataPins, State.pin?_setCfg,
    State.pin?_setReg, hpads, hcs, State.pin?_routePin, Option.map_map]
  rfl

/-- The events of the chip-select step, the pin existing (40_configure.md R106). -/
theorem commitCsPin_bus (a : CommitArgs) {t : State} {x : PinState} (h : t.pin? a.cs = some x) :
    (commitCsPin a t).bus = t.bus ++
      if a.hwcs then [.mux a.cs .spi]
      else [.mux a.cs .sio, .csDrive a.unit a.cs x.out, .csDrive a.unit a.cs true] := by
  have hx : (t.routePin a.cs .sio).pin? a.cs = some { x with func := .sio } := by
    simp [State.pin?_routePin, h]
  unfold commitCsPin
  split
  · rfl
  · rw [State.enableCsOutput_of_pin hx]
    simp [Config.csIdle]

/-- The events of a commit whose chip-select pin exists, in the order of the writes. -/
theorem commit_bus (a : CommitArgs) {s : State} {x : PinState} (h : s.pin? a.cs = some x) : (commit a s).bus =
    s.bus ++ [.mux a.sck .spi, .mux a.tx .spi, .mux a.rx .spi] ++
      (if a.hwcs then [.mux a.cs .spi] else [.mux a.cs .sio, .csDrive a.unit a.cs x.out, .csDrive a.unit a.cs true]) ++
      (if Config.fFast ≤ a.freq then [.padUpgrade a.sck, .padUpgrade a.tx] else []) := by
  have hpads : ∀ t : State, (commitPads a t).bus =
      t.bus ++ if Config.fFast ≤ a.freq then [.padUpgrade a.sck, .padUpgrade a.tx] else [] := by
    intro t
    unfold commitPads
    split <;> simp
  have hroute : ∀ (t : State) (p : Byte) (y : PinState), t.pin? a.cs = some y →
      ∃ z, (t.routePin p .spi).pin? a.cs = some z ∧ z.out = y.out := by
    intro t p y hy
    refine ⟨_, by rw [State.pin?_routePin, hy]; rfl, ?_⟩
    dsimp only
    split <;> rfl
  have hout : ∃ y : PinState, (commitDataPins a s).pin? a.cs = some y ∧ y.out = x.out := by
    obtain ⟨y1, h1, e1⟩ := hroute s a.sck x h
    obtain ⟨y2, h2, e2⟩ := hroute _ a.tx y1 h1
    obtain ⟨y3, h3, e3⟩ := hroute _ a.rx y2 h2
    exact ⟨y3, h3, by rw [e3, e2, e1]⟩
  obtain ⟨y, hy, hyx⟩ := hout
  have hdata : (commitDataPins a s).bus = s.bus ++ [.mux a.sck .spi, .mux a.tx .spi, .mux a.rx .spi] := by
    simp [commitDataPins]
  simp only [commit, commitBinding, commitEnable, commitRegisters, State.setCfg_bus, State.setReg_bus, hpads,
    commitCsPin_bus a hy, hdata, hyx]

/-! ## What each command can do -/

/-- A CONFIGURE is admitted at an F_SYS in the range of 00_scope.md R12 whose dividers fit (40_configure.md R104). -/
theorem configureAdmitted_eq_true {fSys f : Nat} : configureAdmitted fSys f = true ↔
    25000000 ≤ fSys ∧ fSys ≤ 162559999 ∧ (divisorsFor fSys f).admitted = true := by
  simp only [configureAdmitted, clockInRange, Bool.and_eq_true, decide_eq_true_eq, and_assoc]
  rfl

/-- The cases of CONFIGURE (40_configure.md R110): rejection, refusal, commit. It always answers a next state. -/
theorem execConfigure_cases (u : BitVec 4) (sck tx rx cs : Byte) (freqReq : BitVec 32) (mode : BitVec 8)
    (hwcs : Bool) (s : State) :
    (s.valid u sck tx rx cs mode = false ∧
      execConfigure u sck tx rx cs freqReq mode hwcs s = .next (finishConfigure false s)) ∨
    (s.valid u sck tx rx cs mode = true ∧ configureAdmitted s.plat.fSys (clampFreq freqReq) = false ∧
      execConfigure u sck tx rx cs freqReq mode hwcs s = .next s.refuseDivisor) ∨
    (∃ k, unitOf u = some k ∧ s.valid u sck tx rx cs mode = true ∧
      configureAdmitted s.plat.fSys (clampFreq freqReq) = true ∧
      execConfigure u sck tx rx cs freqReq mode hwcs s = .next (finishConfigure true
        (commit { unit := k, sck := sck, tx := tx, rx := rx, cs := cs, mode := modeField mode, hwcs := hwcs,
                  freq := clampFreq freqReq, div := divisorsFor s.plat.fSys (clampFreq freqReq) } s))) := by
  cases hu : unitOf u with
  | none =>
    have hv : s.valid u sck tx rx cs mode = false := by simp [State.valid, hu]
    exact .inl ⟨hv, by simp [execConfigure, hu]⟩
  | some k =>
    cases hv : s.valid u sck tx rx cs mode with
    | false => exact .inl ⟨rfl, by simp [execConfigure, hu, hv]⟩
    | true =>
      cases ha : configureAdmitted s.plat.fSys (clampFreq freqReq) with
      | false => exact .inr (.inl ⟨rfl, rfl, by simp [execConfigure, hu, hv, ha]⟩)
      | true => exact .inr (.inr ⟨k, rfl, rfl, rfl, by simp [execConfigure, hu, hv, ha]⟩)

/-- A next state of BEGIN or END on a unit is the state with cp advanced, the chip-select pin of a software-toggled
binding driven or nothing else changed (41_transaction.md R130, R131). -/
theorem toggleChipSelect_next {k : UnitId} {level : Bool} {s t : State} (h : toggleChipSelect k level s = .next t) :
    t = s.advance 1 ∨
    ∃ b, s.binding? k = some b ∧ b.hwcs = false ∧
      b.pinCs.toNat < s.nPins ∧ t = (s.driveCs k b.pinCs level).advance 1 := by
  unfold toggleChipSelect at h
  split at h
  · cases h; exact .inl rfl
  · next b hb =>
    split at h
    · cases h; exact .inl rfl
    · next hw =>
      split at h
      · next hp =>
        refine .inr ⟨b, hb, by simpa using hw, hp, ?_⟩
        cases h; rfl
      · cases h

end Sys2Proof.Machine
end

