-- ==== Sys2Proof/Laws/Step.lean ====
section
/-! SUPPORT. What one step can do, said once: every next state of the machine is one of the moves of the inductive
predicate below, each named after the rule it follows. Invariants and frames are case analyses over it. -/

namespace Sys2Proof.Machine

/-- The next states of the agents from `s`. Each constructor holds what the move knows of `s`. -/
inductive Moves (env : Env) (s : State) : State → Prop where
  /-- 60_exceptions.md R161. -/
  | illegal {w0 : Word} {rest : List Word} {cause : Cause} (ready : s.phase = .ready) (noFault : s.fault = none)
      (noRefusal : s.refused = none) (words : s.cmd.drop s.cp = w0 :: rest) (dec : decode w0 rest = .error cause) :
      Moves env s (s.raiseIllegal w0 cause)
  /-- 40_configure.md R111. -/
  | rejected {w0 : Word} {rest : List Word} {u : BitVec 4} {sck tx rx cs : Byte} {freqReq : BitVec 32}
      {mode : BitVec 8} {hwcs : Bool} (ready : s.phase = .ready) (noFault : s.fault = none)
      (noRefusal : s.refused = none) (words : s.cmd.drop s.cp = w0 :: rest)
      (dec : decode w0 rest = .ok (.configure u sck tx rx cs freqReq mode hwcs))
      (invalid : s.valid u sck tx rx cs mode = false) : Moves env s (finishConfigure false s)
  /-- 60_exceptions.md R163. -/
  | refused {w0 : Word} {rest : List Word} {u : BitVec 4} {sck tx rx cs : Byte} {freqReq : BitVec 32}
      {mode : BitVec 8} {hwcs : Bool} (ready : s.phase = .ready) (noFault : s.fault = none)
      (noRefusal : s.refused = none) (words : s.cmd.drop s.cp = w0 :: rest)
      (dec : decode w0 rest = .ok (.configure u sck tx rx cs freqReq mode hwcs))
      (valid : s.valid u sck tx rx cs mode = true)
      (unfit : configureAdmitted s.plat.fSys (clampFreq freqReq) = false) : Moves env s s.refuseDivisor
  /-- 40_configure.md R110. -/
  | committed {w0 : Word} {rest : List Word} {k : UnitId} {sck tx rx cs : Byte} {freqReq : BitVec 32}
      {mode : BitVec 8} {hwcs : Bool} (ready : s.phase = .ready) (noFault : s.fault = none)
      (noRefusal : s.refused = none) (words : s.cmd.drop s.cp = w0 :: rest)
      (dec : decode w0 rest = .ok (.configure k.field sck tx rx cs freqReq mode hwcs))
      (valid : s.valid k.field sck tx rx cs mode = true)
      (fit : configureAdmitted s.plat.fSys (clampFreq freqReq) = true) :
      Moves env s (finishConfigure true
        (commit { unit := k, sck := sck, tx := tx, rx := rx, cs := cs, mode := modeField mode, hwcs := hwcs,
                  freq := clampFreq freqReq, div := divisorsFor s.plat.fSys (clampFreq freqReq) } s))
  /-- BEGIN or END without an effect (41_transaction.md R130, R131). -/
  | noEffect {w0 : Word} {rest : List Word} {i : Instr} (ready : s.phase = .ready) (noFault : s.fault = none)
      (noRefusal : s.refused = none) (words : s.cmd.drop s.cp = w0 :: rest) (dec : decode w0 rest = .ok i)
      (one : i.length = 1) : Moves env s (s.advance 1)
  /-- BEGIN or END that drives the pin (41_transaction.md R130, R131). -/
  | toggled {w0 : Word} {rest : List Word} {i : Instr} {k : UnitId} {b : Binding} {level : Bool}
      (ready : s.phase = .ready) (noFault : s.fault = none) (noRefusal : s.refused = none)
      (words : s.cmd.drop s.cp = w0 :: rest) (dec : decode w0 rest = .ok i) (one : i.length = 1)
      (bound : s.binding? k = some b) (software : b.hwcs = false) (pin : b.pinCs.toNat < s.nPins) :
      Moves env s ((s.driveCs k b.pinCs level).advance 1)
  /-- 41_transaction.md R132. -/
  | zero {w0 : Word} {rest : List Word} {k : UnitId} {d : Byte} (ready : s.phase = .ready) (noFault : s.fault = none)
      (noRefusal : s.refused = none) (words : s.cmd.drop s.cp = w0 :: rest)
      (dec : decode w0 rest = .ok (.transfer k.field d)) (unconfigured : (s.cfg.get k).configured = false) :
      Moves env s ((s.respond (.byte 0x00)).advance 1)
  /-- 41_transaction.md R134. -/
  | issued {w0 : Word} {rest : List Word} {k : UnitId} {d : Byte} (ready : s.phase = .ready) (noFault : s.fault = none)
      (noRefusal : s.refused = none) (words : s.cmd.drop s.cp = w0 :: rest)
      (dec : decode w0 rest = .ok (.transfer k.field d)) (configured : (s.cfg.get k).configured = true) :
      Moves env s (issue k d s)
  /-- 41_transaction.md R135. -/
  | polled {k : UnitId} {d : Byte} (noFault : s.fault = none) (noRefusal : s.refused = none)
      (phase : s.phase = .poll k d) : Moves env s (pollStep k s)
  /-- 41_transaction.md R138. -/
  | collected {k : UnitId} (noFault : s.fault = none) (noRefusal : s.refused = none)
      (phase : s.phase = .collect k) : Moves env s (collectStep env k s)
  /-- 41_transaction.md R136. -/
  | frameStarted {k : UnitId} {d : Byte} {rest : List Byte} (queued : (s.per.get k).txq = d :: rest)
      (idle : (s.per.get k).shift = none) (enabled : (s.reg.get k).ctrl1.enable = true) : Moves env s (frameStart k s)
  /-- 41_transaction.md R137. -/
  | frameEnded {k : UnitId} {d : Byte} (inFlight : (s.per.get k).shift = some d) : Moves env s (frameEnd env k s)

theorem stop_ne_next (s t : State) : stop s ≠ .next t := by
  unfold stop
  repeat' split
  all_goals simp

/-- A scheduled step is the stop of a state without enabled agents, or the step of one enabled agent, the model's
count of choices apart. -/
theorem stepUnder_cases (env : Env) (s : State) :
    (enabledAgents s = [] ∧ stepUnder env s = stop s) ∨
    ∃ a, agentEnabled s a = true ∧
      (stepUnder env s = agentStep env s a ∨ stepUnder env s = agentStep env s.turnTaken a) := by
  unfold stepUnder scheduledStep
  split
  · next h => exact .inl ⟨h, rfl⟩
  · next a h =>
    have ha : a ∈ enabledAgents s := by simp [h]
    exact .inr ⟨a, (List.mem_filter.mp ha).2, .inl rfl⟩
  · next a rest h' h =>
    have ha : agentEnabled s a = true := by
      have : a ∈ enabledAgents s := by rw [h]; simp
      exact (List.mem_filter.mp this).2
    refine .inr ⟨chosen env s a, ?_, .inr rfl⟩
    unfold chosen
    split
    · assumption
    · exact ha

/-- The controller's conditions, read off its being enabled. -/
theorem controllerEnabled_marks {s : State} (h : controllerEnabled s = true) : s.fault = none ∧ s.refused = none := by
  unfold controllerEnabled at h
  simp only [Bool.and_eq_true, Option.isNone_iff_eq_none] at h
  exact h.1

/-- A decoded command's next state is a move. -/
theorem Moves.of_exec {env : Env} {s t : State} {w0 : Word} {rest : List Word} {i : Instr} (ready : s.phase = .ready)
    (noFault : s.fault = none) (noRefusal : s.refused = none) (words : s.cmd.drop s.cp = w0 :: rest)
    (dec : decode w0 rest = .ok i) (h : exec i s = .next t) : Moves env s t := by
  have toggle : ∀ k level, i.length = 1 → toggleChipSelect k level s = .next t → Moves env s t := by
    intro k level one ht
    rcases toggleChipSelect_next ht with rfl | ⟨b, hb, hw, hp, rfl⟩
    · exact .noEffect ready noFault noRefusal words dec one
    · exact .toggled ready noFault noRefusal words dec one hb hw hp
  have unit : ∀ u : BitVec 4, u.toNat < 2 → ∃ k, unitOf u = some k := by
    intro u hu
    cases h : unitOf u with
    | none => exact absurd (unitOf_eq_none.mp h) (by omega)
    | some k => exact ⟨k, rfl⟩
  rcases decode_ok dec with ⟨w1, w2, tail, -, -, -, rfl⟩ | ⟨-, -, hu, rfl⟩ | ⟨-, -, hu, rfl⟩ | ⟨-, -, hu, rfl⟩
  · unfold decodeConfigure at dec h
    simp only [exec] at h
    rcases execConfigure_cases (unitField w0) (bits w1 0 8) (bits w1 8 8) (bits w1 16 8) (bits w1 24 8) w2
        (byte1Field w0) (hwcsField w0) s with ⟨hv, he⟩ | ⟨hv, ha, he⟩ | ⟨k, hk, hv, ha, he⟩
    · rw [he] at h; cases h
      exact .rejected ready noFault noRefusal words dec hv
    · rw [he] at h; cases h
      exact .refused ready noFault noRefusal words dec hv ha
    · rw [he] at h; cases h
      rw [unitOf_eq_some] at hk
      rw [hk] at dec hv
      exact .committed ready noFault noRefusal words dec hv ha
  · obtain ⟨k, hk⟩ := unit _ hu
    exact toggle k false rfl (by simpa [exec, execBegin, hk, Config.csActive] using h)
  · obtain ⟨k, hk⟩ := unit _ hu
    exact toggle k true rfl (by simpa [exec, execEnd, hk, Config.csIdle] using h)
  · obtain ⟨k, hk⟩ := unit _ hu
    have hf := unitOf_eq_some.mp hk
    simp only [exec, execTransfer, hk] at h
    split at h
    · next hc => cases h; exact .issued ready noFault noRefusal words (by rw [dec, hf]) hc
    · next hc => cases h; exact .zero ready noFault noRefusal words (by rw [dec, hf]) (by simpa using hc)

/-- A next state of an enabled agent's step is a move. -/
theorem Moves.of_agentStep {env : Env} {s t : State} {a : Agent} (ha : agentEnabled s a = true)
    (h : agentStep env s a = .next t) : Moves env s t := by
  cases a with
  | controller =>
    have hm := controllerEnabled_marks ha
    simp only [agentStep, controllerStep] at h
    split at h
    · next hp =>
      unfold readyStep State.fetch at h
      cases hd : s.cmd.drop s.cp with
      | nil => simp [hd] at h
      | cons w0 rest =>
        simp only [hd] at h
        split at h
        · next hc => cases h; exact .illegal hp hm.1 hm.2 hd hc
        · next hc => exact .of_exec hp hm.1 hm.2 hd hc h
    · next hp => cases h; exact .polled hm.1 hm.2 hp
    · next hp => cases h; exact .collected hm.1 hm.2 hp
  | peripheral k =>
    simp only [agentStep, peripheralStep, Host.Outcome.next.injEq] at h
    split at h
    · next he =>
      subst h
      obtain ⟨d, hd⟩ := Option.isSome_iff_exists.mp he
      exact .frameEnded hd
    · next he =>
      subst h
      have hs : frameStartEnabled k s = true := by simpa [agentEnabled, he] using ha
      simp only [frameStartEnabled, Bool.and_eq_true, Bool.not_eq_true', List.isEmpty_eq_false_iff,
        Option.isNone_iff_eq_none] at hs
      obtain ⟨⟨hq, hi⟩, hen⟩ := hs
      obtain ⟨d, rest, hq⟩ := List.exists_cons_of_ne_nil hq
      exact .frameStarted hq hi hen

@[simp] theorem agentEnabled_turnTaken (s : State) (a : Agent) : agentEnabled s.turnTaken a = agentEnabled s a := by
  cases a <;> rfl

/-- Every next state is a move from the state with, at most, one scheduling choice counted. -/
theorem Moves.of_step {env : Env} {s t : State} (h : stepUnder env s = .next t) :
    Moves env s t ∨ Moves env s.turnTaken t := by
  rcases stepUnder_cases env s with ⟨-, hs⟩ | ⟨a, ha, hs | hs⟩
  · exact absurd (hs ▸ h) (stop_ne_next s t)
  · exact .inl (.of_agentStep ha (hs ▸ h))
  · exact .inr (.of_agentStep (by simpa using ha) (hs ▸ h))

end Sys2Proof.Machine
end

