-- ==== Sys2Proof/Laws/Inv.lean ====
section
/-! SUPPORT. The laws of the premises and invariants: the default platform meets R11 to R13 and R54, a unit's invariant carries
over to a state that agrees on what it reads, pins of different roles or units differ, and which agents are enabled. -/

namespace Sys2Proof.Machine

/-- The default platform meets the constraints of 00_scope.md R11 to R13 and 20_memory.md R54. -/
theorem defaultPlatform_wf : Config.defaultPlatform.Wf Config.defaultNPins := by
  constructor
  · decide
  · decide
  · intro u r; cases u <;> cases r <;> decide
  · intro r r'; cases r <;> cases r' <;> decide
  · intro u r r'; cases u <;> cases r <;> cases r' <;> decide
  · intro u r; cases u <;> cases r <;> decide
  · intro b hb
    simp only [List.mem_cons, List.not_mem_nil, or_false] at hb
    rcases hb with rfl | rfl | rfl | rfl
    · exact ⟨.rx, by decide⟩
    · exact ⟨.cs, by decide⟩
    · exact ⟨.sck, by decide⟩
    · exact ⟨.tx, by decide⟩
  · intro u; cases u <;> decide
  · decide

theorem clampFreq_range (freqReq : BitVec 32) :
    Config.fMin ≤ clampFreq freqReq ∧ clampFreq freqReq ≤ Config.fMax := by
  unfold clampFreq clamp Config.fMin Config.fMax; omega

theorem fineBeforeRounding_eq (n s : Nat) : fineBeforeRounding n s = n / s := by
  unfold fineBeforeRounding
  split
  · next h => simp [h]
  · rfl

/-- Pins of two different roles of a unit, or of two units, differ (00_scope.md R11 (a), (b)). -/
theorem inRole_ne {s : State} (ready : PlatformReady s) {k k' : UnitId} {r r' : Role} {p q : Byte}
    (hp : s.inRole k r p = true) (hq : s.inRole k' r' q = true) (h : k ≠ k' ∨ r ≠ r') : p ≠ q := by
  rintro rfl
  obtain ⟨hp, -⟩ := State.inRole_eq.mp hp
  obtain ⟨hq, -⟩ := State.inRole_eq.mp hq
  by_cases hk : k = k'
  · subst hk
    exact h.elim (· rfl) (· (ready.roles_disjoint k r r' p hp hq))
  · cases k <;> cases k' <;>
      first
      | exact hk rfl
      | exact ready.units_disjoint _ _ _ hp hq
      | exact ready.units_disjoint _ _ _ hq hp

/-- A unit's invariant carries over to a state with the same parameters and binding, the same fields CONFIGURE writes,
and the same routing of the chip-select pin. -/
theorem UnitInv.congr {s t : State} {k : UnitId} (hplat : t.plat = s.plat) (hn : t.nPins = s.nPins)
    (hcfg : t.cfg.get k = s.cfg.get k) (hctrl : (t.reg.get k).ctrl = (s.reg.get k).ctrl)
    (hctrl1 : (t.reg.get k).ctrl1 = (s.reg.get k).ctrl1) (hpre : (t.reg.get k).prescale = (s.reg.get k).prescale)
    (hpin : ∀ b, s.binding? k = some b → ∀ x, s.pin? b.pinCs = some x →
      ∃ y, t.pin? b.pinCs = some y ∧ y.func = x.func ∧ y.oe = x.oe)
    (h : UnitInv s k) : UnitInv t k := by
  unfold UnitInv at *
  have hbound : t.binding? k = s.binding? k := by simp [State.binding?, hcfg]
  rw [hbound]
  cases h2 : s.binding? k <;> simp only [h2] at h ⊢
  · rw [hctrl1]; exact h
  · next b =>
    have role : ∀ r p, t.inRole k r p = s.inRole k r p := by intro r p; simp [State.inRole, hplat, hn]
    obtain ⟨x, hx, hr⟩ := h.cs_pin
    obtain ⟨y, hy, e1, e2⟩ := hpin b h2 x hx
    exact
      { freq_range := h.freq_range
        sck_role := by rw [role]; exact h.sck_role
        tx_role := by rw [role]; exact h.tx_role
        rx_role := by rw [role]; exact h.rx_role
        cs_role := by rw [role]; exact h.cs_role
        admitted := by rw [hplat]; exact h.admitted
        ctrl_eq := by rw [hctrl, hplat]; exact h.ctrl_eq
        prescale_eq := by rw [hpre, hplat]; exact h.prescale_eq
        enabled := by rw [hctrl1]; exact h.enabled
        cs_pin := ⟨y, hy, by rw [e1, e2]; exact hr⟩ }

/-- The units' invariants carry over where parameters, pins, bindings and registers are the same. -/
theorem UnitInv.of_same {s t : State} (hplat : t.plat = s.plat) (hpins : t.pins = s.pins) (hcfg : t.cfg = s.cfg)
    (hreg : t.reg = s.reg) (h : ∀ k, UnitInv s k) (k : UnitId) : UnitInv t k :=
  UnitInv.congr hplat (by simp [State.nPins, hpins]) (by rw [hcfg]) (by rw [hreg]) (by rw [hreg]) (by rw [hreg])
    (fun _ _ x hx => ⟨x, by simpa [State.pin?, hpins] using hx, rfl, rfl⟩) (h k)

/-- The binding of a configured unit, and its invariant. -/
theorem UnitInv.bound {s : State} {k : UnitId} (h : UnitInv s k) (hc : (s.cfg.get k).configured = true) :
    BindingInv s k (s.cfg.get k).binding := by
  unfold UnitInv at h
  rwa [State.binding?_eq_some.mpr ⟨hc, rfl⟩] at h

/-- A word is left in the stream at cp. -/
theorem cp_lt_of_words {s : State} {w0 : Word} {rest : List Word} (h : s.cmd.drop s.cp = w0 :: rest) :
    s.cp < s.cmd.length := by
  by_contra hl
  rw [List.drop_eq_nil_of_le (by omega)] at h
  cases h

/-- A decoded command lies whole in the stream. -/
theorem cp_add_length_le {s : State} {w0 : Word} {rest : List Word} {i : Instr} (h : s.cmd.drop s.cp = w0 :: rest)
    (dec : decode w0 rest = .ok i) : s.cp + i.length ≤ s.cmd.length := by
  have hl : (s.cmd.drop s.cp).length = rest.length + 1 := by rw [h]; rfl
  have := cp_lt_of_words h
  rw [List.length_drop] at hl
  rcases decode_ok dec with ⟨w1, w2, tail, -, rfl, -, rfl⟩ | ⟨-, -, -, rfl⟩ | ⟨-, -, -, rfl⟩ | ⟨-, -, -, rfl⟩ <;>
    simp [Instr.length, decodeConfigure] at * <;> omega

/-- With no peripheral step pending only the controller moves. -/
theorem enabledAgents_controller {s : State} (hc : controllerEnabled s = true)
    (hp : ∀ k, agentEnabled s (.peripheral k) = false) : enabledAgents s = [.controller] := by
  have h0 := hp .unit0
  have h1 := hp .unit1
  have hc' : agentEnabled s .controller = true := hc
  simp [enabledAgents, List.filter, h0, h1, hc']

/-- With one peripheral's step pending that peripheral and the controller contend. -/
theorem enabledAgents_pair {s : State} {k : UnitId} (hc : controllerEnabled s = true)
    (hp : agentEnabled s (.peripheral k) = true) (ho : agentEnabled s (.peripheral k.other) = false) :
    enabledAgents s = [.controller, .peripheral k] := by
  have hc' : agentEnabled s .controller = true := hc
  cases k <;> simp [UnitId.other] at ho <;> simp [enabledAgents, List.filter, hp, ho, hc']

/-- A run of `m + n` steps goes on from where `m` steps lead. -/
theorem runUnder_add (env : Env) (m n : Nat) {s t : State} (h : runUnder env m s = .next t) :
    runUnder env (m + n) s = runUnder env n t := by
  induction m generalizing s with
  | zero => simp only [runUnder] at h; cases h; simp
  | succ m ih =>
    rw [Nat.succ_add]
    simp only [runUnder] at h ⊢
    cases hs : stepUnder env s with
    | next u => rw [hs] at h; exact ih h
    | fault r => rw [hs] at h; cases h
    | refused r => rw [hs] at h; cases h

end Sys2Proof.Machine
end

