-- ==== Sys2Proof/Laws/PerInstr.lean ====
section
/-! SUPPORT. The family EncodedForm, one lemma for each command: a well-formed command's encoding has the command's
length (30_encoding.md R71), and its word 0 fits the row of the opcode map that bears its mnemonic (R79). -/

namespace Sys2Proof.Laws.EncodedForm

/-- The encoding of the command has its length, and word 0 fits the row of its mnemonic. -/
def Statement (i : Instr) : Prop :=
  i.wellFormed = true → (encode i).length = i.length ∧
    ∃ row ∈ opcodeRows, row.fits (encodeWord0 i) = true ∧ row.mnemonic = i.mnemonic ∧ row.length = i.length

/-- The unit of a BEGIN, TRANSFER or END is 0 or 1. -/
theorem unit_of_lt {u : BitVec 4} (h : u.toNat < 2) : u = 0 ∨ u = 1 := by
  rcases (by omega : u.toNat = 0 ∨ u.toNat = 1) with h0 | h1
  · exact .inl (BitVec.eq_of_toNat_eq h0)
  · exact .inr (BitVec.eq_of_toNat_eq h1)

theorem configure (u : BitVec 4) (sck tx rx cs : Byte) (freqReq : BitVec 32) (mode : BitVec 8) (hwcs : Bool) :
    Statement (.configure u sck tx rx cs freqReq mode hwcs) := by
  refine fun _ => ⟨rfl, opcodeRows[0], by simp [opcodeRows], ?_, rfl, rfl⟩
  simp only [opcodeRows, List.getElem_cons_zero, OpcodeRow.fits, encodeWord0, beq_iff_eq]
  ext j hj
  simp only [BitVec.getElem_and, BitVec.getElem_append]
  interval_cases j <;> simp

theorem beginTxn (u : BitVec 4) : Statement (.beginTxn u) := by
  intro h
  rcases unit_of_lt (by simpa [Instr.wellFormed] using h) with rfl | rfl <;>
    exact ⟨rfl, opcodeRows[1], by decide, by decide, rfl, rfl⟩

theorem transfer (u : BitVec 4) (d : Byte) : Statement (.transfer u d) := by
  intro h
  refine ⟨rfl, opcodeRows[2], by decide, ?_, rfl, rfl⟩
  rcases unit_of_lt (by simpa [Instr.wellFormed] using h) with rfl | rfl <;>
  · simp only [opcodeRows, List.getElem_cons_zero, List.getElem_cons_succ, OpcodeRow.fits, encodeWord0, beq_iff_eq]
    ext j hj
    simp only [BitVec.getElem_and, BitVec.getElem_append]
    interval_cases j <;> simp

theorem endTxn (u : BitVec 4) : Statement (.endTxn u) := by
  intro h
  rcases unit_of_lt (by simpa [Instr.wellFormed] using h) with rfl | rfl <;>
    exact ⟨rfl, opcodeRows[3], by decide, by decide, rfl, rfl⟩

end Sys2Proof.Laws.EncodedForm
end

