-- ==== Sys2Proof/Machine/Asm.lean ====
section
/-! DEFINITION. The text syntax of the commands (30_encoding.md R84) and the pseudo-command TXN (R85), over lists of
characters. -/

namespace Sys2Proof.Asm

/-- The value of a digit character in a base. -/
def digit (base : Nat) (c : Char) : Option Nat :=
  let n := c.toNat
  let v :=
    if 48 ≤ n ∧ n ≤ 57 then n - 48
    else if 65 ≤ n ∧ n ≤ 70 then n - 55
    else if 97 ≤ n ∧ n ≤ 102 then n - 87
    else base
  if v < base then some v else none

/-- The digits of a number in a base, most significant first. -/
def digits (base : Nat) : Nat → List Char → Option Nat
  | acc, [] => some acc
  | acc, c :: cs => (digit base c).bind fun v => digits base (acc * base + v) cs

/-- A decimal or 0x-hexadecimal number (R84). -/
def number : List Char → Option Nat
  | '0' :: 'x' :: c :: cs => digits 16 0 (c :: cs)
  | c :: cs => digits 10 0 (c :: cs)
  | [] => none

/-- A space or a tab. -/
def blank (c : Char) : Bool := c = ' ' || c = '\t'

/-- Blanks taken off both ends. -/
def trim (cs : List Char) : List Char :=
  ((cs.dropWhile blank).reverse.dropWhile blank).reverse

/-- The operands of a line, split at commas. -/
def operands (cs : List Char) : List (List Char) :=
  (cs.splitOn ',').map trim

/-- A number that fits an operand of the given width (00_scope.md R14). -/
def fitted (len : Nat) (cs : List Char) : Option (BitVec len) :=
  (number cs).bind fun n => if n < 2 ^ len then some (BitVec.ofNat len n) else none

/-- `hw` sets HWCS = 1 and `sw` sets HWCS = 0 (R84). -/
def discipline (cs : List Char) : Option Bool :=
  if cs = ['h', 'w'] then some true else if cs = ['s', 'w'] then some false else none

/-- All of a list of optional things. -/
def allSome {α : Type} : List (Option α) → Option (List α)
  | [] => some []
  | x :: xs => x.bind fun a => (allSome xs).map (a :: ·)

/-- The commands of a mnemonic with its operands; TXN expands (R85). -/
def command (mnemonic : List Char) (ops : List (List Char)) : Option (List Instr) :=
  if mnemonic = "CONFIGURE".toList then
    match ops with
    | [u, sck, tx, rx, cs, freq, mode, disc] => do
      let u ← fitted 4 u
      let sck ← fitted 8 sck
      let tx ← fitted 8 tx
      let rx ← fitted 8 rx
      let cs ← fitted 8 cs
      let freq ← fitted 32 freq
      let mode ← fitted 8 mode
      let hwcs ← discipline disc
      some [.configure u sck tx rx cs freq mode hwcs]
    | _ => none
  else if mnemonic = "BEGIN".toList then
    match ops with
    | [u] => (fitted 4 u).map fun u => [.beginTxn u]
    | _ => none
  else if mnemonic = "TRANSFER".toList then
    match ops with
    | [u, d] => (fitted 4 u).bind fun u => (fitted 8 d).map fun d => [.transfer u d]
    | _ => none
  else if mnemonic = "END".toList then
    match ops with
    | [u] => (fitted 4 u).map fun u => [.endTxn u]
    | _ => none
  else if mnemonic = "TXN".toList then
    match ops with
    | u :: d :: ds => (fitted 4 u).bind fun u => (allSome ((d :: ds).map (fitted 8))).map (Instr.txn u)
    | _ => none
  else none

/-- One line of text: the commands it stands for, none where it is no line of the syntax. A blank line and "a line
starting with `;`" stand for no command (R84); text after a `;` is a comment too (log 26). -/
def line (cs : List Char) : Option (List Instr) :=
  let text := trim (cs.takeWhile (· ≠ ';'))
  if text = [] then some []
  else command (text.takeWhile (! blank ·)) (operands (text.dropWhile (! blank ·)))

/-- The command words of a text, one command per line (R84). -/
def assemble (text : List Char) : Option (List Word) :=
  (allSome ((text.splitOn '\n').map line)).map fun is => is.flatten.flatMap encode

end Sys2Proof.Asm
end

