-- ==== Sys2Proof/Tests/Slice0.lean ====
section
/-! SUPPORT. Tests whose expected results are the spec's own (30_encoding.md section 9, 95_test_vectors.md, named V and P
below), and for every statement with hypotheses a state and operands that meet them. -/

namespace Sys2Proof.Tests

open Sys2Proof Sys2Proof.Machine

/-! ## Helpers -/

/-- The next state of an outcome. -/
def nextOf : Host.Outcome State Fault Refusal → Option State
  | .next t => some t
  | _ => none

/-- The next state of an outcome, reset where there is none. -/
def after (o : Host.Outcome State Fault Refusal) : State := (nextOf o).getD State.reset

/-- The state after reset with a command stream supplied. -/
def loaded (ws : List Word) : State := State.reset.loadStream ws

/-- The first worked example (V4.0a), with the peripheral-automated discipline. -/
def hwCommand : Instr := .configure 0 18 19 16 17 10000000 0 true
/-- The CONFIGURE of V4.0b, with the software-toggled discipline. -/
def swCommand : Instr := .configure 0 18 19 16 17 1000000 3 false

/-- After V4.0a, with the stream `ws` and cp at its first word. -/
def hwState (ws : List Word) : State := { (after (exec hwCommand (loaded ws))) with cp := 0 }
/-- After V4.0b, with the stream `ws` and cp at its first word. -/
def swState (ws : List Word) : State := { (after (exec swCommand (loaded ws))) with cp := 0 }

/-- The stream of one TRANSFER. -/
def oneTransfer : List Word := [0x0000A503]

/-- After the issue step of `TRANSFER 0, 0xA5` on a configured unit 0 (V5.2, step 1). -/
def issued : State := after (exec (.transfer 0 0xA5) (hwState oneTransfer))
/-- With the frame of that TRANSFER in flight (V5.2, step 3). -/
def shifting : State := frameStart .unit0 issued
/-- Waiting for the collect step of that TRANSFER, 0x3C received (V5.2, step 5). -/
def collecting : State :=
  { (issued.setBusy .unit0 false).setPhase (.collect .unit0) with
    per := { x0 := { txq := [], rxq := [0x3C], shift := none }, x1 := UnitPer.reset } }

/-- An environment in which a given agent always moves and the remote device always returns 0x3C. -/
def favouring (a : Agent) : Env := { turn := fun _ => a, byte := fun _ => 0x3C, line := fun _ => true }

/-- A marked state in which a peripheral may still move. -/
def markedShifting : State := { shifting with phase := .ready, fault := some { cp := 0, word := 5, cause := .reservedOpcode } }

/-! ## Well-formedness -/

/-- R80: BEGIN, TRANSFER and END of a unit 2 to 15 are ill formed. -/
theorem test_ill_formed_refused :
    (Instr.beginTxn 2).wellFormed = false ∧ (Instr.transfer 2 0).wellFormed = false ∧
      (Instr.endTxn 15).wellFormed = false := by decide

/-- R80: CONFIGURE may name any unit value. -/
theorem test_configure_any_unit_well_formed : (Instr.configure 15 255 255 255 255 0 255 true).wellFormed = true := by
  decide

/-- R80, R81 (c): the words of the ill-formed terms are refused. -/
theorem test_ill_formed_words_refused :
    decode (encodeWord0 (.beginTxn 2)) [0, 0] = .error .unsupportedUnit ∧
      decode (encodeWord0 (.transfer 2 0)) [0, 0] = .error .unsupportedUnit ∧
      decode (encodeWord0 (.endTxn 15)) [0, 0] = .error .unsupportedUnit := ⟨rfl, rfl, rfl⟩

/-! ## Decoding: words written out from R72 to R77, R86 and V6 -/

/-- R86, with trailing words of another command. -/
theorem test_decode_configure :
    decode 0b00000000000000010000000000000001 [0x11101312, 0x00989680, 0x12] = .ok hwCommand := rfl

/-- V6.10, V6.12: legal CONFIGURE words of unit 15 and of mode 255. -/
theorem test_decode_configure_extremes :
    decode 0x000000F1 [0x11101312, 0xFFFFFFFF] = .ok (.configure 15 18 19 16 17 0xFFFFFFFF 0 false) ∧
      decode 0x0001FF01 [0x11101312, 0] = .ok (.configure 0 18 19 16 17 0 255 true) := ⟨rfl, rfl⟩

/-- R76: BEGIN of both units. -/
theorem test_decode_begin :
    decode 0b00000000000000000000000000010010 [] = .ok (.beginTxn 1) ∧
      decode 0b00000000000000000000000000000010 [] = .ok (.beginTxn 0) := ⟨rfl, rfl⟩

/-- R77, R86, V6.13. -/
theorem test_decode_transfer :
    decode 0b00000000000000001010010100000011 [] = .ok (.transfer 0 0xA5) ∧
      decode 0x0000FF13 [] = .ok (.transfer 1 0xFF) := ⟨rfl, rfl⟩

/-- R76, R86, V6.14. -/
theorem test_decode_end :
    decode 0b00000000000000000000000000000100 [] = .ok (.endTxn 0) ∧ decode 0x00000014 [] = .ok (.endTxn 1) :=
  ⟨rfl, rfl⟩

/-- V6.1 to V6.3: reserved opcodes. -/
theorem test_decode_reserved_opcode :
    decode 0x00000000 [0, 0] = .error .reservedOpcode ∧ decode 0x00000005 [0, 0] = .error .reservedOpcode ∧
      decode 0x0000000F [0, 0] = .error .reservedOpcode := ⟨rfl, rfl, rfl⟩

/-- V6.5, V6.6, V6.7, V6.9: reserved bits. -/
theorem test_decode_reserved_bits :
    decode 0x00000102 [0, 0] = .error .reservedBits ∧ decode 0x80000004 [0, 0] = .error .reservedBits ∧
      decode 0x00010003 [0, 0] = .error .reservedBits ∧ decode 0x00020001 [0, 0] = .error .reservedBits :=
  ⟨rfl, rfl, rfl, rfl⟩

/-- V6.4, V6.8: unsupported units. -/
theorem test_decode_unsupported_unit :
    decode 0x00000022 [0, 0] = .error .unsupportedUnit ∧ decode 0x0000FFF3 [0, 0] = .error .unsupportedUnit :=
  ⟨rfl, rfl⟩

/-- V6.11, and R82's order: a truncated CONFIGURE with reserved bits is truncated first. -/
theorem test_decode_truncated :
    decode 0x00010001 [0x11101312] = .error .truncatedCommand ∧ decode 0x00020001 [] = .error .truncatedCommand :=
  ⟨rfl, rfl⟩

/-- R161: the cause codes. -/
theorem test_cause_codes :
    Cause.reservedOpcode.code = 1 ∧ Cause.reservedBits.code = 2 ∧ Cause.unsupportedUnit.code = 3 ∧
      Cause.truncatedCommand.code = 4 := by decide

/-- R86: the encoder gives the worked encodings. -/
theorem test_encode_worked :
    encode hwCommand = [0x00010001, 0x11101312, 0x00989680] ∧ encode (.beginTxn 1) = [0x00000012] ∧
      encode (.transfer 0 0xA5) = [0x0000A503] ∧ encode (.endTxn 0) = [0x00000004] := by decide

/-- The host's numbering: word 0 is the low 32 bits. -/
theorem test_table_words :
    decodeTableWord 96 0x009896801110131200010001 = some hwCommand ∧ decodeTableWord 32 0x12 = some (.beginTxn 1) ∧
      decodeTableWord 32 0x00000001 = some (.configure 0 0 0 0 0 0 0 false) ∧ decodeTableWord 32 0x5 = none := by
  decide

/-- R84, R85: a text in which a comment, decimal and hexadecimal numbers and TXN occur, and its words. -/
theorem test_assemble :
    Asm.assemble "; example 1\nCONFIGURE 0, 18, 19, 16, 17, 10000000, 0, hw\nTXN 0, 0xA5, 1".toList =
      some [0x00010001, 0x11101312, 0x00989680, 0x00000002, 0x0000A503, 0x00000103, 0x00000004] := by decide

/-! ## Operands: V1, V2, V3 -/

/-- V1.1 to V1.4. -/
theorem test_valid_quadruples :
    State.reset.valid 0 18 19 16 17 0 = true ∧ State.reset.valid 0 2 3 0 1 3 = true ∧
      State.reset.valid 0 22 7 20 5 1 = true ∧ State.reset.valid 1 26 27 28 29 2 = true := by decide

/-- V1.5 to V1.10: pins of the wrong unit or role. -/
theorem test_wrong_roles :
    State.reset.valid 0 10 11 8 9 0 = false ∧ State.reset.valid 1 18 19 16 17 0 = false ∧
      State.reset.valid 0 19 18 16 17 0 = false ∧ State.reset.valid 0 18 19 17 16 0 = false ∧
      State.reset.valid 0 18 18 16 17 0 = false ∧ State.reset.valid 0 18 19 16 9 0 = false := by decide

/-- V1.11 to V1.16: modes, absent pins and units that do not exist. -/
theorem test_wrong_mode_pin_unit :
    State.reset.valid 0 18 19 16 17 4 = false ∧ State.reset.valid 0 19 18 16 17 255 = false ∧
      State.reset.valid 1 30 27 24 25 0 = false ∧ State.reset.valid 0 255 19 16 17 0 = false ∧
      State.reset.valid 2 18 19 16 17 0 = false ∧ State.reset.valid 15 10 11 8 9 0 = false := by decide

/-- V2.1 to V2.9. -/
theorem test_clamp :
    clampFreq 0 = 2500 ∧ clampFreq 1 = 2500 ∧ clampFreq 2499 = 2500 ∧ clampFreq 2500 = 2500 ∧ clampFreq 2501 = 2501 ∧
      clampFreq 10000000 = 10000000 ∧ clampFreq 25000000 = 25000000 ∧ clampFreq 25000001 = 25000000 ∧
      clampFreq 0xFFFFFFFF = 25000000 := by decide

/-- V3.2, V3.4, V3.6, V3.8, V3.9, V3.15, V3.18: S and P at 125 MHz. -/
theorem test_divisors :
    divisorsFor 125000000 2500 = { coarse := 197, fine := 252 } ∧
      divisorsFor 125000000 50000 = { coarse := 10, fine := 250 } ∧
      divisorsFor 125000000 250000 = { coarse := 2, fine := 250 } ∧
      divisorsFor 125000000 492125 = { coarse := 2, fine := 126 } ∧
      divisorsFor 125000000 492126 = { coarse := 1, fine := 254 } ∧
      divisorsFor 125000000 10000000 = { coarse := 1, fine := 12 } ∧
      divisorsFor 125000000 20000000 = { coarse := 1, fine := 6 } := by decide

/-- V3.25 to V3.29: the edges of the admitted clock range. -/
theorem test_admission :
    (divisorsFor 25000000 25000000).admitted = true ∧ (divisorsFor 162559999 2500).admitted = true ∧
      (divisorsFor 162559999 2500).scaleRate = 255 ∧ (divisorsFor 162560000 2500).admitted = false ∧
      (divisorsFor 200000000 2500).coarse = 315 ∧ (divisorsFor 24999999 25000000).admitted = false := by decide

/-! ## CONFIGURE: V4.0a, V4.0b -/

/-- V4.0a: events in order, registers, binding, response and cp. -/
theorem test_configure_automated :
    let t := after (step (loaded [0x00010001, 0x11101312, 0x00989680]))
    t.bus = [.mux 18 .spi, .mux 19 .spi, .mux 16 .spi, .mux 17 .spi, .padUpgrade 18, .padUpgrade 19] ∧
      t.regWord .unit0 .ctrl = some 0x0007 ∧ t.regWord .unit0 .prescale = some 12 ∧ t.regWord .unit0 .ctrl1 = some 2 ∧
      t.cfg.get .unit0 =
        { configured := true
          binding :=
            { freq := 10000000, mode := 0, hwcs := true, pinSck := 18, pinTx := 19, pinRx := 16, pinCs := 17 } } ∧
      t.resp = [.ok true] ∧ t.cp = 3 ∧ t.reg.get .unit1 = UnitRegs.reset := by decide

/-- V4.0b: the chip-select pin under the software-toggled discipline, with the set-up glitch of R192. -/
theorem test_configure_software :
    let t := after (step (loaded [0x00000301, 0x11101312, 0x000F4240]))
    t.bus = [.mux 18 .spi, .mux 19 .spi, .mux 16 .spi, .mux 17 .sio, .csDrive .unit0 17 false,
        .csDrive .unit0 17 true] ∧
      t.regWord .unit0 .ctrl = some 0x00C7 ∧ t.regWord .unit0 .prescale = some 126 ∧
      t.pin? 17 = some { func := .sio, oe := true, out := true, drive := .default, slew := .default } := by decide

/-! ## BEGIN and END: V4.1 to V4.5 -/

/-- V4.1. -/
theorem test_begin_drives_low :
    let t := after (step (swState [0x00000002]))
    t.bus.drop 6 = [.csDrive .unit0 17 false] ∧ (t.pin? 17).map (·.out) = some false ∧ t.cp = 1 ∧ t.resp = [.ok true] := by
  decide

/-- V4.3, V4.5: only cp moves. -/
theorem test_begin_does_nothing :
    step (hwState [0x00000002]) = .next { hwState [0x00000002] with cp := 1 } ∧
      step (loaded [0x00000012]) = .next { loaded [0x00000012] with cp := 1 } := ⟨rfl, rfl⟩

/-- V4.2. -/
theorem test_end_drives_high :
    let t := after (step ((swState [0x00000004]).driveCs .unit0 17 false))
    t.bus.drop 7 = [.csDrive .unit0 17 true] ∧ (t.pin? 17).map (·.out) = some true ∧ t.cp = 1 := by decide

/-- V4.4, and END of an unconfigured unit: only cp moves. -/
theorem test_end_does_nothing :
    step (hwState [0x00000004]) = .next { hwState [0x00000004] with cp := 1 } ∧
      step (loaded [0x00000014]) = .next { loaded [0x00000014] with cp := 1 } := ⟨rfl, rfl⟩

/-! ## TRANSFER: V5.1 and the steps of V5.2 -/

/-- V5.1: no access at all. -/
theorem test_transfer_unconfigured :
    step (loaded [0x00005513]) = .next { loaded [0x00005513] with cp := 1, resp := [.byte 0] } := rfl

/-- V5.2, step 1. -/
theorem test_transfer_issue :
    let t := after (step (hwState oneTransfer))
    t.phase = .poll .unit0 0xA5 ∧ (t.per.get .unit0).txq = [0xA5] ∧ (t.reg.get .unit0).busy = true ∧ t.cp = 0 ∧
      t.resp = [.ok true] := by decide

/-- V5.2, step 3: the frame starts and the automated chip-select line is low. -/
theorem test_frame_start :
    let t := after (stepUnder (favouring (.peripheral .unit0)) issued)
    (t.per.get .unit0).txq = [] ∧ (t.per.get .unit0).shift = some 0xA5 ∧ t.csLine? .unit0 = some false ∧
      t.bus.drop 6 = [.frameStart .unit0 0xA5] := by decide

/-- V5.2, step 4: the frame ends with the drawn byte, and the line is high again. -/
theorem test_frame_end :
    let t := after (stepUnder (favouring (.peripheral .unit0)) shifting)
    (t.per.get .unit0).rxq = [0x3C] ∧ (t.per.get .unit0).shift = none ∧ (t.reg.get .unit0).busy = false ∧
      t.csLine? .unit0 = some true ∧ t.bus.drop 7 = [.frame .unit0 0xA5 0x3C false] := by decide

/-- V5.2, steps 2 and 5: a poll of a busy unit changes nothing but the count of turns, one of an idle unit goes on. -/
theorem test_poll :
    stepUnder (favouring .controller) issued = .next { issued with turns := 1 } ∧
      (after (controllerStep (favouring .controller) (issued.setBusy .unit0 false))).phase = .collect .unit0 :=
  ⟨rfl, rfl⟩

/-- V5.2, step 6. -/
theorem test_collect :
    let t := after (step collecting)
    (t.per.get .unit0).rxq = [] ∧ t.resp = [.ok true, .byte 0x3C] ∧ t.phase = .ready ∧ t.cp = 1 := by decide

/-! ## Reset, faults and the end of a run -/

/-- R33: STATUS reads 0x03 after reset; R35: the reset words of the registers the block never accesses (log 14). -/
theorem test_reset_words :
    State.reset.regWord .unit0 .status = some 0x03 ∧ State.reset.regWord .unit1 .ctrl = some 0 ∧
      State.reset.regWord .unit1 .imsc = some 0 ∧ State.reset.regWord .unit0 .dmacr = some 0 := by decide

/-- R37: BUSY is up and TFE down while a byte waits. -/
theorem test_status_busy : issued.regWord .unit0 .status = some 0x12 := by decide

/-- 20_memory.md R66 with the reference layout: the address of unit 1's STATUS. -/
theorem test_effective_address : effAddr Config.defaultPlatform .unit1 .status = 0x4004000C := by decide

/-- R186: with no stream the run has ended (log 1, log 10). -/
theorem test_empty_stream_ends : step State.reset = .fault .endOfRun := rfl

/-- P4: an illegal word sets the mark, and the following step stops with its record. -/
theorem test_illegal_word_stops :
    let r : FaultRecord := { cp := 0, word := 0x00000005, cause := .reservedOpcode }
    step (loaded [0x00000005, 0x00000213]) = .next { loaded [0x00000005, 0x00000213] with fault := some r } ∧
      step { loaded [0x00000005, 0x00000213] with fault := some r } = .fault (.illegalCommand r) := ⟨rfl, rfl⟩

/-- P6: a truncated CONFIGURE. -/
theorem test_truncated_stops :
    step (loaded [0x00010001, 0x11101312]) =
      .next { loaded [0x00010001, 0x11101312] with
        fault := some { cp := 0, word := 0x00010001, cause := .truncatedCommand } } := rfl

/-- V3.28, P7: a refused configuration, and the stop after it; at the same F_SYS one whose own dividers fit is refused too
(R12, D7; log 11), and an invalid one answers Ok(false) (P7). -/
theorem test_configure_refused :
    let s := { loaded [0x00010001, 0x11101312, 0x000007D0, 0x00001103] with
      plat := { Config.defaultPlatform with fSys := 200000000 } }
    step s = .next { s with refused := some { cp := 0 } } ∧
      step { s with refused := some { cp := 0 } } = .refused (.divisorOutOfRange { cp := 0 }) ∧
      exec hwCommand s = .next { s with refused := some { cp := 0 } } ∧
      exec (.configure 0 10 11 8 9 2000 0 true) s = .next { s with resp := [.ok false], cp := 3 } :=
  ⟨rfl, rfl, rfl, rfl⟩

/-- Every row of the opcode table, placed after reset, is the first command that runs. -/
theorem test_placed_words_run :
    (after (step (State.reset.withFetchWord 96 0x009896801110131200010001))).resp = [.ok true] ∧
      step (State.reset.withFetchWord 32 0x2) = exec (.beginTxn 0) (State.reset.withFetchWord 32 0x2) ∧
      (after (step (State.reset.withFetchWord 32 0x5513))).resp = [.byte 0] ∧
      step (State.reset.withFetchWord 32 0x14) = exec (.endTxn 1) (State.reset.withFetchWord 32 0x14) := by
  refine ⟨by decide, rfl, by decide, rfl⟩

/-! ## Witnesses: the hypotheses of every statement that has some are met -/

/-- The parameters of every state built here meet PlatformReady. -/
theorem ready_of_default {s : State} (hp : s.plat = Config.defaultPlatform) (hn : s.nPins = Config.defaultNPins) :
    PlatformReady s := by
  unfold PlatformReady; rw [hp, hn]; exact defaultPlatform_wf

/-- For DecodeOfEncodedCommandIsThatCommand. -/
theorem witness_well_formed :
    hwCommand.wellFormed = true ∧ (Instr.beginTxn 1).wellFormed = true ∧ (Instr.transfer 1 0xFF).wellFormed = true ∧
      (Instr.endTxn 0).wellFormed = true := by decide

/-- For EncodeOfDecodedWordsIsThoseWords, OperandsArePlainUnsignedFields, LengthIsFixedByTheOpcodeAlone and
DecoderAcceptsExactlyTheOpcodeMap: each command is decoded from some words. -/
theorem witness_decoded :
    decode 0x0001FFF1 [0xFFFFFFFF, 0xFFFFFFFF] = .ok (.configure 15 255 255 255 255 0xFFFFFFFF 255 true) ∧
      decode 0x12 [0, 0] = .ok (.beginTxn 1) ∧ decode 0xFF13 [0, 0] = .ok (.transfer 1 0xFF) ∧
      decode 0x14 [0, 0] = .ok (.endTxn 1) := ⟨rfl, rfl, rfl, rfl⟩

/-- For OpcodeRowsNeverOverlap. -/
theorem witness_row_fits : ∀ row ∈ opcodeRows, ∃ w0, row.fits w0 = true := by
  intro row h; exact ⟨row.pattern, by revert row; decide⟩

/-- For ByteCarriageIsLittleEndianBothWays, second clause. -/
theorem witness_bytes : wordsOfBytes [0x03, 0xA5, 0x00, 0x00] = some [0x0000A503] := by decide

/-- For ResponsesAsWords, third clause, and UnitlessCommandsRaiseUnsupportedUnit. -/
theorem witness_responding :
    exec (.beginTxn 0) State.reset = .next { State.reset with cp := 1 } ∧ 2 ≤ (2 : BitVec 4).toNat ∧
      2 ≤ (15 : BitVec 4).toNat := ⟨rfl, by decide, by decide⟩

/-- In the states after reset no peripheral moves. -/
theorem loaded_quiet (ws : List Word) (k : UnitId) : agentEnabled (loaded ws) (.peripheral k) = false := by
  cases k <;> rfl

/-- For StepRunsTheDecodedCommand. -/
theorem witness_step_runs :
    let s := loaded [0xA503]
    s.phase = .ready ∧ s.fault = none ∧ s.refused = none ∧ (∀ k, agentEnabled s (.peripheral k) = false) ∧
      s.cmd.drop s.cp = [0xA503] ∧ decode 0xA503 [] = .ok (.transfer 0 0xA5) :=
  ⟨rfl, rfl, rfl, loaded_quiet _, rfl, rfl⟩

/-- For PlacedWordIsRunByTheNextStep. -/
theorem witness_placed : decodeTableWord 32 0x12 = some (.beginTxn 1) ∧ decodeTableWord 96 0xFFFFFFFFFFFFFFFF0001FFF1 =
    some (.configure 15 255 255 255 255 0xFFFFFFFF 255 true) := by decide

/-- For IllegalCommandSetsOnlyTheFaultMark. -/
theorem witness_illegal :
    let s := loaded [0x00000022]
    s.phase = .ready ∧ s.fault = none ∧ s.refused = none ∧ (∀ k, agentEnabled s (.peripheral k) = false) ∧
      s.cmd.drop s.cp = [0x22] ∧ decode 0x22 [] = .error .unsupportedUnit :=
  ⟨rfl, rfl, rfl, loaded_quiet _, rfl, rfl⟩

/-- For MarkedStateHasNoNextControllerStep: a marked state in which a peripheral moves, and one in which none does, of
either mark. -/
theorem witness_marked :
    markedShifting.fault.isSome = true ∧ (∃ t, stepUnder (favouring .controller) markedShifting = .next t) ∧
      (∀ k, agentEnabled { loaded [5] with refused := some { cp := 0 } } (.peripheral k) = false) :=
  ⟨rfl, ⟨_, rfl⟩, fun k => by cases k <;> rfl⟩

/-- For MarksAreNeverCleared: both marks in states with a next step. -/
theorem witness_marks_kept :
    (∃ t, stepUnder (favouring .controller) markedShifting = .next t ∧ markedShifting.fault.isSome = true) ∧
      (∃ t, stepUnder (favouring .controller) { markedShifting with fault := none, refused := some { cp := 3 } } =
        .next t) := ⟨⟨_, rfl, rfl⟩, ⟨_, rfl⟩⟩

/-- For FinalStatesAreTheEndOfTheRun: a final state, and one that its last clause keeps out. -/
theorem witness_final : State.reset.final = true ∧ markedShifting.final = false ∧ issued.final = false := by decide

/-- For PendingTransferHoldsEveryCommand: a poll and a collect with a next state. -/
theorem witness_pending :
    (issued.phase ≠ .ready ∧ ∃ t, stepUnder (favouring .controller) issued = .next t) ∧
      (collecting.phase ≠ .ready ∧ ∃ t, stepUnder (favouring .controller) collecting = .next t) :=
  ⟨⟨by decide, ⟨_, rfl⟩⟩, ⟨by decide, ⟨_, rfl⟩⟩⟩

/-- For CommandPointerAdvancesByCommandLength, EveryStepIsOneEnabledAgents, NoStepChangesStreamOrParameters,
HistoryAndResponsesOnlyGrow, UnnamedRegisterFieldsKeepTheirValues (ENABLE set in both): a step of the controller and a step
of a peripheral. -/
theorem witness_next_states :
    (∃ t, stepUnder (favouring .controller) (hwState [0x00000012]) = .next t ∧ t.cp = 1) ∧
      (∃ t, stepUnder (favouring (.peripheral .unit0)) shifting = .next t ∧ t.cp = 0) ∧
      (shifting.reg.get .unit0).ctrl1.enable = true := ⟨⟨_, rfl, rfl⟩, ⟨_, rfl, rfl⟩, rfl⟩

/-- For EveryEnabledAgentMayMoveNext: both agents enabled in one state. -/
theorem witness_enabled :
    agentEnabled issued .controller = true ∧ agentEnabled issued (.peripheral .unit0) = true := by decide

/-- For ConfiguredIsSetOnlyByASuccessfulConfigure: each clause. -/
theorem witness_configured_set :
    (∃ t, stepUnder (favouring .controller) (loaded [0x00010001, 0x11101312, 0x00989680]) = .next t ∧
      ((loaded []).cfg.get .unit0).configured = false ∧ (t.cfg.get .unit0).configured = true) ∧
      (∃ t, stepUnder (favouring .controller) (hwState [0x00000002]) = .next t ∧
        ((hwState []).cfg.get .unit0).configured = true) := ⟨⟨_, rfl, rfl, rfl⟩, ⟨_, rfl, rfl⟩⟩

/-- The binding that V4.0a leaves. -/
def hwBinding : Binding :=
  { freq := 10000000, mode := 0, hwcs := true, pinSck := 18, pinTx := 19, pinRx := 16, pinCs := 17 }

/-- The binding that V4.0b leaves. -/
def swBinding : Binding :=
  { freq := 1000000, mode := 3, hwcs := false, pinSck := 18, pinTx := 19, pinRx := 16, pinCs := 17 }

/-- After V4.0a each unit meets its invariant. -/
theorem hwState_units (k : UnitId) : UnitInv (hwState oneTransfer) k := by
  cases k
  · have h : BindingInv (hwState oneTransfer) .unit0 hwBinding :=
      { freq_range := by decide, sck_role := by decide, tx_role := by decide, rx_role := by decide
        cs_role := by decide, admitted := by decide, ctrl_eq := by decide, prescale_eq := by decide
        enabled := by decide, cs_pin := ⟨_, rfl, by decide⟩ }
    exact h
  · have h : ((hwState oneTransfer).reg.get .unit1).ctrl1.enable = false := by decide
    exact h

/-- After V4.0b each unit meets its invariant. -/
theorem swState_units (k : UnitId) : UnitInv (swState oneTransfer) k := by
  cases k
  · have h : BindingInv (swState oneTransfer) .unit0 swBinding :=
      { freq_range := by decide, sck_role := by decide, tx_role := by decide, rx_role := by decide
        cs_role := by decide, admitted := by decide, ctrl_eq := by decide, prescale_eq := by decide
        enabled := by decide, cs_pin := ⟨_, rfl, by decide⟩ }
    exact h
  · have h : ((swState oneTransfer).reg.get .unit1).ctrl1.enable = false := by decide
    exact h

/-- A later state of the same TRANSFER has the units of V4.0a. -/
theorem same_units {s : State} (hplat : s.plat = (hwState oneTransfer).plat) (hpins : s.pins = (hwState oneTransfer).pins)
    (hcfg : s.cfg = (hwState oneTransfer).cfg)
    (hctrl : ∀ k, (s.reg.get k).ctrl = ((hwState oneTransfer).reg.get k).ctrl)
    (hctrl1 : ∀ k, (s.reg.get k).ctrl1 = ((hwState oneTransfer).reg.get k).ctrl1)
    (hpre : ∀ k, (s.reg.get k).prescale = ((hwState oneTransfer).reg.get k).prescale) (k : UnitId) : UnitInv s k :=
  UnitInv.congr (s := hwState oneTransfer) hplat (by simp [State.nPins, hpins]) (by rw [hcfg]) (hctrl k) (hctrl1 k)
    (hpre k) (fun _ _ x hx => ⟨x, by simpa [State.pin?, hpins] using hx, rfl, rfl⟩) (hwState_units k)

/-- For EveryStepKeepsTheBlockInvariant and OnlyTheSpecsStopsAreReached: a configured state meets the invariant, and so
do a polling one and one waiting to collect. -/
theorem witness_inv :
    Inv (hwState oneTransfer) ∧ Inv (swState oneTransfer) ∧ Inv issued ∧ Inv collecting ∧
      (∃ t, stepUnder (favouring .controller) (hwState oneTransfer) = .next t) := by
  have queued : (issued.per.get .unit0).carrying 0xA5 := .inl ⟨rfl, rfl, rfl⟩
  have idleUnit : UnitPer.reset.empty := ⟨⟨rfl, rfl⟩, rfl⟩
  refine ⟨?_, ?_, ?_, ?_, ⟨_, rfl⟩⟩
  · exact { platform := ready_of_default rfl rfl
            units := hwState_units
            busy := fun k => by cases k <;> unfold BusyInv <;> decide
            phase := fun k => by cases k <;> exact idleUnit
            marks := ⟨by decide, by decide⟩, stream := by decide }
  · exact { platform := ready_of_default rfl rfl
            units := swState_units
            busy := fun k => by cases k <;> unfold BusyInv <;> decide
            phase := fun k => by cases k <;> exact idleUnit
            marks := ⟨by decide, by decide⟩, stream := by decide }
  · exact { platform := ready_of_default rfl rfl
            units := same_units rfl rfl rfl (fun k => by cases k <;> rfl) (fun k => by cases k <;> rfl)
              (fun k => by cases k <;> rfl)
            busy := fun k => by cases k <;> unfold BusyInv <;> decide
            phase := ⟨rfl, queued, idleUnit, by decide⟩
            marks := ⟨by decide, by decide⟩, stream := by decide }
  · exact { platform := ready_of_default rfl rfl
            units := same_units rfl rfl rfl (fun k => by cases k <;> rfl) (fun k => by cases k <;> rfl)
              (fun k => by cases k <;> rfl)
            busy := fun k => by cases k <;> unfold BusyInv <;> decide
            phase := ⟨rfl, ⟨rfl, rfl⟩, ⟨_, rfl⟩, idleUnit, by decide⟩
            marks := ⟨by decide, by decide⟩, stream := by decide }

/-- For CommandsOfOneUnitIgnoreTheOther: each command of a unit has a next state. -/
theorem witness_one_unit :
    (∃ t, exec (.configure UnitId.unit1.field 10 11 8 9 1000000 0 true) State.reset = .next t) ∧
      (∃ t, exec (.beginTxn UnitId.unit0.field) (swState []) = .next t) ∧
      (∃ t, exec (.transfer UnitId.unit0.field 0xA5) (hwState []) = .next t) ∧
      (∃ t, exec (.endTxn UnitId.unit0.field) (swState []) = .next t) := ⟨⟨_, rfl⟩, ⟨_, rfl⟩, ⟨_, rfl⟩, ⟨_, rfl⟩⟩

/-- For ValidatorIsRoleMembership and ValidPinsAreDistinctAndOfTheUnit, the highest pins and the highest mode. -/
theorem witness_valid : PlatformReady State.reset ∧ State.reset.valid UnitId.unit1.field 26 27 28 29 3 = true :=
  ⟨ready_of_default rfl rfl, by decide⟩

/-- For RequestedFrequencyIsClamped, the boundary of each clause. -/
theorem witness_clamp :
    (2499 : BitVec 32).toNat < 2500 ∧ 25000000 < (25000001 : BitVec 32).toNat ∧ 2500 ≤ (2500 : BitVec 32).toNat ∧
      (25000000 : BitVec 32).toNat ≤ 25000000 := by decide

/-- For DividersHaveTheStatedProperties, the two sides of the S = 1 boundary (V3.8, V3.9) and P = 0 (V3.29). -/
theorem witness_dividers :
    0 < 492126 ∧ (divisorsFor 125000000 492126).coarse = 1 ∧ 1 < (divisorsFor 125000000 492125).coarse ∧
      (divisorsFor 24999999 25000000).fine = 0 := by decide

/-- For AdmittedClockRangeIsExact: both ends of the range of frequencies. -/
theorem witness_clock_range : 2500 ≤ 2500 ∧ 2500 ≤ 25000000 ∧ 25000000 ≤ 25000000 ∧ 25000000 ≤ 162559999 := by decide

/-- For InvalidConfigureOnlyAnswersFalse: mode 4, and unit 2. -/
theorem witness_invalid :
    State.reset.valid 0 18 19 16 17 4 = false ∧ State.reset.valid 2 18 19 16 17 0 = false := by decide

/-- For UnadmittedConfigureSetsOnlyTheRefusalMark: each disjunct at its edge (V3.27, V3.29); and an F_SYS above the range
at which the dividers themselves fit. -/
theorem witness_unadmitted :
    (let s := { State.reset with plat := { Config.defaultPlatform with fSys := 162560000 } };
      s.valid 0 18 19 16 17 0 = true ∧ 162560000 / 2500 + 1 = 65025 ∧ 255 < (65025 + 253) / 254 - 1 ∧
        162559999 < s.plat.fSys ∧ (divisorsFor s.plat.fSys 10000000).admitted = true) ∧
    (let s := { State.reset with plat := { Config.defaultPlatform with fSys := 24999999 } };
      s.valid 0 18 19 16 17 0 = true ∧ 24999999 / 25000000 + 1 = 1 ∧ (1 + 253) / 254 = 1 ∧ 1 / 1 - 1 / 1 % 2 < 2 ∧
        s.plat.fSys < 25000000) := by
  decide

/-- For ValidConfigureCommits: at the pad threshold (V3.14), with the highest mode; and both ends of the clock range. -/
theorem witness_commits :
    PlatformReady State.reset ∧ State.reset.valid UnitId.unit0.field 18 19 16 17 3 = true ∧
      8000000 = min (max (8000000 : BitVec 32).toNat 2500) 25000000 ∧
      16 = State.reset.plat.fSys / 8000000 + 1 ∧ 1 = (16 + 253) / 254 ∧ 16 = 16 / 1 - 16 / 1 % 2 ∧
      25000000 ≤ State.reset.plat.fSys ∧ State.reset.plat.fSys ≤ 162559999 ∧
      clockInRange 25000000 = true ∧ clockInRange 162559999 = true := ⟨ready_of_default rfl rfl, by decide⟩

/-- For ConfigureTouchesOnlyItsUnitAndPins: a CONFIGURE that commits and one that is rejected; a pin of the other unit
and one that is not named. -/
theorem witness_touches :
    PlatformReady State.reset ∧ (∃ t, exec hwCommand State.reset = .next t) ∧
      (∃ t, exec (.configure UnitId.unit0.field 10 11 8 9 1000000 0 true) State.reset = .next t) ∧
      (10 : Byte) ∈ (State.reset.plat.pinmap.get UnitId.unit0.other).get .sck ∧ (2 : Byte) ∉ [(18 : Byte), 19, 16, 17] :=
  ⟨ready_of_default rfl rfl, ⟨_, rfl⟩, ⟨_, rfl⟩, by decide, by decide⟩

/-- For EffectiveAddressesAreDistinct and EffectiveAddressesAreAligned. -/
theorem witness_addresses :
    Config.defaultPlatform.Wf 30 ∧
      effAddr Config.defaultPlatform .unit0 (.ident 7) = effAddr Config.defaultPlatform .unit0 (.ident 7) :=
  ⟨defaultPlatform_wf, rfl⟩

/-- A unit bound to the software-toggled discipline with a given chip-select pin. -/
def boundTo (cs : Byte) : State :=
  State.reset.setCfg .unit1
    { configured := true
      binding := { freq := 2500, mode := 0, hwcs := false, pinSck := 26, pinTx := 27, pinRx := 28, pinCs := cs } }

/-- For BeginDrivesChipSelectLowOrDoesNothing and EndDrivesChipSelectHighOrDoesNothing: each clause, the last pin at the
end of its range. -/
theorem witness_chip_select_commands :
    (State.reset.cfg.get .unit0).configured = false ∧
      (((hwState []).cfg.get .unit0).configured = true ∧
        ((hwState []).cfg.get .unit0).binding.hwcs = true) ∧
      (((boundTo 29).cfg.get .unit1).configured = true ∧
        ((boundTo 29).cfg.get .unit1).binding.hwcs = false ∧ ((boundTo 29).cfg.get .unit1).binding.pinCs = 29 ∧
        29 < (boundTo 29).nPins) := by decide

/-- For AbsentChipSelectPinStopsBeginAndEnd: the first absent pin. -/
theorem witness_absent_pin :
    ((boundTo 30).cfg.get .unit1).configured = true ∧ ((boundTo 30).cfg.get .unit1).binding.hwcs = false ∧
      ((boundTo 30).cfg.get .unit1).binding.pinCs = 30 ∧ (boundTo 30).nPins ≤ (30 : Byte).toNat := by decide

/-- For UnwrittenBindingIsNeverRead: each clause, a step that writes the binding, one that does not, and both stops. -/
theorem witness_unwritten :
    ((loaded []).cfg.get .unit0).configured = false ∧
      (∃ t, stepUnder (favouring .controller) (loaded [0x00010001, 0x11101312, 0x00989680]) = .next t ∧
        (t.cfg.get .unit0).configured = true) ∧
      (∃ t, stepUnder (favouring .controller) (loaded [0x00000002]) = .next t ∧ (t.cfg.get .unit0).configured = false) ∧
      stepUnder (favouring .controller) (loaded []) = .fault .endOfRun ∧
      stepUnder (favouring .controller) { loaded [1] with refused := some { cp := 0 } } =
        .refused (.divisorOutOfRange { cp := 0 }) :=
  ⟨rfl, ⟨_, rfl, rfl⟩, ⟨_, rfl, rfl⟩, rfl, rfl⟩

/-- For UnconfiguredTransferAnswersZero and ConfiguredTransferIssuesItsByte. -/
theorem witness_transfer :
    (State.reset.cfg.get .unit1).configured = false ∧ ((hwState []).cfg.get .unit0).configured = true := by decide

/-- For PollReadsBusyOnly: busy and idle. -/
theorem witness_poll :
    issued.phase = .poll .unit0 0xA5 ∧ (issued.reg.get .unit0).busy = true ∧
      (issued.setBusy .unit0 false).phase = .poll .unit0 0xA5 ∧
      ((issued.setBusy .unit0 false).reg.get .unit0).busy = false := by decide

/-- For FrameStartShiftsTheQueueHead, FrameEndDeliversTheDrawnByte and ReceivedByteMayBeAnyByte. -/
theorem witness_frames :
    (issued.per.get .unit0).txq = [0xA5] ∧ (issued.per.get .unit0).shift = none ∧
      (shifting.per.get .unit0).shift = some 0xA5 := by decide

/-- For CollectAnswersTheReceivedByte and EmptyReceiveQueueGivesAFreeByte. -/
theorem witness_collect :
    collecting.phase = .collect .unit0 ∧ (collecting.per.get .unit0).rxq = [0x3C] ∧
      (State.reset.setPhase (.collect .unit0)).phase = .collect .unit0 ∧
      ((State.reset.setPhase (.collect .unit0)).per.get .unit0).rxq = [] := by decide

/-- For ChipSelectLineFollowsTheDiscipline: each clause, the automated line with and without a frame. -/
theorem witness_line :
    ((swState []).csLine? .unit0 = some true ∧ ((swState []).cfg.get .unit0).binding.hwcs = false ∧
      ((swState []).pin? 17).map (fun x => (x.func, x.oe)) = some (.sio, true)) ∧
    ((hwState []).csLine? .unit0 = some true ∧ shifting.csLine? .unit0 = some false ∧
      ((hwState []).cfg.get .unit0).binding.hwcs = true ∧
      ((hwState []).pin? 17).map (·.func) = some .spi) := by decide

/-- An environment that favours a peripheral lets it move again and again. -/
theorem favouring_completes (k : UnitId) : PeripheralCompletes (favouring (.peripheral k)) k :=
  fun n => ⟨n, Nat.le_refl n, rfl⟩

/-- For TransferCompletesWhenThePeripheralDoes: both disciplines. -/
theorem witness_completes :
    (let s := hwState oneTransfer;
      Inv s ∧ PeripheralCompletes (favouring (.peripheral .unit0)) .unit0 ∧ s.phase = .ready ∧ s.fault = none ∧
        s.refused = none ∧ (s.cfg.get .unit0).configured = true ∧
        (∃ b x, (s.cfg.get .unit0).binding = b ∧ b.hwcs = true ∧ s.pin? b.pinCs = some x) ∧
        s.cmd.drop s.cp = [0x0000A503] ∧ decode 0x0000A503 [] = .ok (.transfer UnitId.unit0.field 0xA5)) ∧
    (let s := swState oneTransfer;
      Inv s ∧ (s.cfg.get .unit0).configured = true ∧
        (∃ b x, (s.cfg.get .unit0).binding = b ∧ b.hwcs = false ∧ s.pin? b.pinCs = some x) ∧
        s.phase = .ready ∧ s.fault = none ∧ s.refused = none ∧ s.cmd.drop s.cp = [0x0000A503]) :=
  ⟨⟨witness_inv.1, favouring_completes .unit0, rfl, rfl, rfl, rfl, ⟨_, _, rfl, rfl, rfl⟩, rfl, rfl⟩,
    ⟨witness_inv.2.1, rfl, ⟨_, _, rfl, rfl, rfl⟩, rfl, rfl, rfl, rfl⟩⟩

/-- For PollNeverEndsWhenThePeripheralHangs (V5.5). -/
theorem witness_hang :
    PeripheralHangs (favouring .controller) ∧ issued.phase = .poll .unit0 0xA5 ∧ (issued.reg.get .unit0).busy = true ∧
      issued.fault = none ∧ issued.refused = none := ⟨fun _ => rfl, rfl, rfl, rfl, rfl⟩

end Sys2Proof.Tests
end

/-! # The chip-select line (10_state.md R40) -/

namespace Sys2Proof.Machine

/-- CSLINE(u) as 10_state.md R40 states it: the driven level under the software-toggled discipline, low exactly while a
frame shifts under the peripheral-automated one, and no level in any other case. -/
theorem State.csLine?_eq_some {s : State} {k : UnitId} {level : Bool} :
    s.csLine? k = some level ↔
      ∃ b x, s.binding? k = some b ∧ s.pin? b.pinCs = some x ∧
        (b.hwcs = false ∧ x.func = .sio ∧ x.oe = true ∧ x.out = level ∨
          b.hwcs = true ∧ x.func = .spi ∧ decide ((s.per.get k).shift = none) = level) := by
  unfold State.csLine?
  cases s.binding? k with
  | none => simp
  | some b =>
    cases hpin : s.pin? b.pinCs with
    | none => simp [hpin]
    | some x =>
      cases hwcs : b.hwcs with
      | false => simp [hpin, hwcs, and_assoc]
      | true => cases (s.per.get k).shift <;> simp [hpin, hwcs]

/-- Settles O58: each clause is a reading of `State.csLine?_eq_some`, the bound unit's binding given by
`State.binding?_eq_some`. -/
theorem chipSelectLineFollowsTheDiscipline : Obligations.ChipSelectLineFollowsTheDiscipline := by
  intro s k
  refine ⟨fun b x hconf hbind hsoft hpin hfunc hoe => ?_, fun b x hconf hbind hhard hpin hfunc => ?_,
    fun level hline => ?_⟩
  · exact State.csLine?_eq_some.mpr
      ⟨b, x, State.binding?_eq_some.mpr ⟨hconf, hbind⟩, hpin, .inl ⟨hsoft, hfunc, hoe, rfl⟩⟩
  · exact State.csLine?_eq_some.mpr
      ⟨b, x, State.binding?_eq_some.mpr ⟨hconf, hbind⟩, hpin, .inr ⟨hhard, hfunc, rfl⟩⟩
  · obtain ⟨b, x, hbound, hpin, hcase⟩ := State.csLine?_eq_some.mp hline
    obtain ⟨hconf, hbind⟩ := State.binding?_eq_some.mp hbound
    refine ⟨hconf, b, x, hbind, hpin, ?_⟩
    obtain ⟨hsoft, hfunc, hoe, -⟩ | ⟨hhard, hfunc, -⟩ := hcase
    · exact .inl ⟨hsoft, hfunc, hoe⟩
    · exact .inr ⟨hhard, hfunc⟩

end Sys2Proof.Machine

/-! # Pin primitives and the read-only part of the state (20_memory.md R56, R64) -/

namespace Sys2Proof.Machine

/-- Settles O44: each primitive writes constants to fields of one pin, so its two writes are, by `List.modify_modify_eq`,
one write with the composed function, which is the function itself. -/
theorem pinPrimitivesAreIdempotent : Obligations.PinPrimitivesAreIdempotent := by
  intro s u p func level
  refine ⟨?routing, ?outputEnable, ?level, ?pads⟩
  case routing => rw [State.routePin_pins, State.routePin_pins, List.modify_modify_eq]; rfl
  case outputEnable => rw [State.enableCsOutput_pins, State.enableCsOutput_pins, List.modify_modify_eq]; rfl
  case level => rw [State.driveCs_pins, State.driveCs_pins, List.modify_modify_eq]; rfl
  case pads => rw [State.upgradePad_pins, State.upgradePad_pins, List.modify_modify_eq]; rfl

/-- What no step writes: the command stream (10_state.md R41) and the parameters (00_scope.md R11 to R13). -/
structure State.SameInputs (s t : State) : Prop where
  cmd : t.cmd = s.cmd
  plat : t.plat = s.plat
  nPins : t.nPins = s.nPins

theorem State.readData_sameInputs (env : Env) (s : State) (k : UnitId) : s.SameInputs (s.readData env k).2 := by
  unfold State.readData
  split <;> exact ⟨rfl, rfl, rfl⟩

theorem pollStep_sameInputs (k : UnitId) (s : State) : s.SameInputs (pollStep k s) := by
  unfold pollStep
  split <;> exact ⟨rfl, rfl, rfl⟩

/-- Of the collect step only the read of DATA is conditional; the rest writes `resp`, `cp` and `phase`. -/
theorem collectStep_sameInputs (env : Env) (k : UnitId) (s : State) : s.SameInputs (collectStep env k s) :=
  have ⟨hcmd, hplat, hpins⟩ := s.readData_sameInputs env k
  ⟨hcmd, hplat, hpins⟩

theorem frameStart_sameInputs (k : UnitId) (s : State) : s.SameInputs (frameStart k s) := by
  unfold frameStart
  split <;> exact ⟨rfl, rfl, rfl⟩

theorem frameEnd_sameInputs (env : Env) (k : UnitId) (s : State) : s.SameInputs (frameEnd env k s) := by
  unfold frameEnd
  split <;> exact ⟨rfl, rfl, rfl⟩

/-- No move of an agent writes the stream or a parameter: CONFIGURE's commit and the chip-select toggle change pins but
not their number, and the other moves do not reach the pin list. -/
theorem Moves.sameInputs {env : Env} {s t : State} (h : Moves env s t) : s.SameInputs t := by
  cases h with
  | illegal | rejected | refused | noEffect | zero | issued => exact ⟨rfl, rfl, rfl⟩
  | committed => exact ⟨commit_cmd _ s, commit_plat _ s, commit_nPins _ s⟩
  | toggled => exact ⟨rfl, rfl, s.nPins_modifyPin _ _⟩
  | polled => exact pollStep_sameInputs _ s
  | collected => exact collectStep_sameInputs env _ s
  | frameStarted => exact frameStart_sameInputs _ s
  | frameEnded => exact frameEnd_sameInputs env _ s

/-- The count of a scheduling choice touches neither, so a step keeps what its move keeps. -/
theorem stepUnder_sameInputs {env : Env} {s t : State} (h : stepUnder env s = .next t) : s.SameInputs t := by
  obtain hmove | hmove := Moves.of_step h
  · exact hmove.sameInputs
  · obtain ⟨hcmd, hplat, hpins⟩ := hmove.sameInputs
    exact ⟨hcmd, hplat, hpins⟩

/-- Settles O21: every next state is a move, and no move writes the stream or a parameter. -/
theorem noStepChangesStreamOrParameters : Obligations.NoStepChangesStreamOrParameters := by
  intro env s t h
  obtain ⟨hcmd, hplat, hpins⟩ := stepUnder_sameInputs h
  exact ⟨hcmd, hplat, hpins⟩

end Sys2Proof.Machine

/-! # The opcode map against the decoder (30_encoding.md R71, R78, R79) -/

namespace Sys2Proof

/-! ## Words compared field by field -/

theorem bits_eq_bits_iff {v w : Word} {lo len : Nat} :
    bits v lo len = bits w lo len ↔ ∀ j < len, v.getLsbD (lo + j) = w.getLsbD (lo + j) := by
  simp [bits, BitVec.eq_of_getElem_eq_iff]

theorem eq_iff_bits {v w : Word} : v = w ↔ bits v 0 32 = bits w 0 32 := by
  simp [bits]

/-- A field of `len` bits is cut into its low `a` bits and the `b` bits above them. -/
theorem bits_eq_bits_iff_split {v w : Word} {lo len : Nat} (a b : Nat) (h : a + b = len) :
    bits v lo len = bits w lo len ↔ bits v lo a = bits w lo a ∧ bits v (lo + a) b = bits w (lo + a) b := by
  subst h
  simp only [bits_eq_bits_iff]
  constructor
  · exact fun heq => ⟨fun j hj => heq j (by omega), fun j hj => by
      simpa only [Nat.add_assoc] using heq (a + j) (by omega)⟩
  · rintro ⟨hlow, hhigh⟩ j hj
    obtain hja | ⟨k, rfl⟩ := (Nat.lt_or_ge j a).imp_right Nat.exists_eq_add_of_le
    · exact hlow j hja
    · simpa only [Nat.add_assoc] using hhigh k (by omega)

theorem bits_and_of_kept {w mask : Word} {lo len : Nat} (h : bits mask lo len = BitVec.allOnes len) :
    bits (w &&& mask) lo len = bits w lo len := by
  rw [bits, BitVec.extractLsb'_and, ← bits, ← bits, h, BitVec.and_allOnes]

theorem bits_and_of_ignored {w mask : Word} {lo len : Nat} (h : bits mask lo len = 0) :
    bits (w &&& mask) lo len = 0 := by
  rw [bits, BitVec.extractLsb'_and, ← bits, ← bits, h]
  exact BitVec.and_zero

theorem bits_setWidth_low (op : BitVec 4) : bits (op.setWidth 32) 0 4 = op := by
  apply BitVec.eq_of_toNat_eq
  rw [bits_toNat, BitVec.toNat_setWidth_of_le (by decide), Nat.pow_zero, Nat.div_one, Nat.mod_eq_of_lt op.isLt]

theorem bits_setWidth_high (op : BitVec 4) {lo : Nat} (len : Nat) (h : 4 ≤ lo) : bits (op.setWidth 32) lo len = 0 := by
  have hop : op.toNat < 2 ^ lo := Nat.lt_of_lt_of_le op.isLt (Nat.pow_le_pow_right (by decide) h)
  rw [bits_eq_zero, BitVec.toNat_setWidth_of_le (by decide), Nat.div_eq_of_lt hop, Nat.zero_mod]

/-- UNIT names unit 0 or 1 exactly when its upper three bits are 0. -/
theorem unitField_lt_two {w0 : Word} : (unitField w0).toNat < 2 ↔ bits w0 5 3 = 0 := by
  rw [unitField_toNat, bits_eq_zero]
  omega

/-! ## The masks of the opcode map as conditions on fields -/

section
variable {w0 : Word} {op : BitVec 4}

/-- The mask of CONFIGURE keeps OP and the reserved bits from 17 up. -/
theorem and_configureMask_eq_iff :
    w0 &&& 0xFFFE000F = op.setWidth 32 ↔ opField w0 = op ∧ bits w0 17 15 = 0 := by
  rw [eq_iff_bits, bits_eq_bits_iff_split 4 28 rfl, bits_eq_bits_iff_split 13 15 rfl]
  simp (disch := decide) only [bits_and_of_kept, bits_and_of_ignored, bits_setWidth_low, bits_setWidth_high,
    Nat.zero_add, Nat.reduceAdd, true_and, opField]

/-- The mask of BEGIN and END keeps all but the low bit of UNIT. -/
theorem and_chipSelectMask_eq_iff :
    w0 &&& 0xFFFFFFEF = op.setWidth 32 ↔ opField w0 = op ∧ (unitField w0).toNat < 2 ∧ bits w0 8 24 = 0 := by
  rw [eq_iff_bits, bits_eq_bits_iff_split 4 28 rfl, bits_eq_bits_iff_split 1 27 rfl, bits_eq_bits_iff_split 3 24 rfl]
  simp (disch := decide) only [bits_and_of_kept, bits_and_of_ignored, bits_setWidth_low, bits_setWidth_high,
    Nat.zero_add, Nat.reduceAdd, true_and, opField, unitField_lt_two]

/-- The mask of TRANSFER keeps OP, the upper bits of UNIT and the reserved bits from 16 up, and ignores DATA. -/
theorem and_transferMask_eq_iff :
    w0 &&& 0xFFFF00EF = op.setWidth 32 ↔ opField w0 = op ∧ (unitField w0).toNat < 2 ∧ bits w0 16 16 = 0 := by
  rw [eq_iff_bits, bits_eq_bits_iff_split 4 28 rfl, bits_eq_bits_iff_split 1 27 rfl, bits_eq_bits_iff_split 3 24 rfl,
    bits_eq_bits_iff_split 8 16 rfl]
  simp (disch := decide) only [bits_and_of_kept, bits_and_of_ignored, bits_setWidth_low, bits_setWidth_high,
    Nat.zero_add, Nat.reduceAdd, true_and, opField, unitField_lt_two]

end

/-! ## The rows of the opcode map -/

section
variable {w0 : Word}

theorem configureRow_fits : opcodeRows[0].fits w0 = true ↔ opField w0 = 0x1 ∧ bits w0 17 15 = 0 :=
  beq_iff_eq.trans (and_configureMask_eq_iff (op := 0x1))

theorem beginRow_fits :
    opcodeRows[1].fits w0 = true ↔ opField w0 = 0x2 ∧ (unitField w0).toNat < 2 ∧ bits w0 8 24 = 0 :=
  beq_iff_eq.trans (and_chipSelectMask_eq_iff (op := 0x2))

theorem transferRow_fits :
    opcodeRows[2].fits w0 = true ↔ opField w0 = 0x3 ∧ (unitField w0).toNat < 2 ∧ bits w0 16 16 = 0 :=
  beq_iff_eq.trans (and_transferMask_eq_iff (op := 0x3))

theorem endRow_fits :
    opcodeRows[3].fits w0 = true ↔ opField w0 = 0x4 ∧ (unitField w0).toNat < 2 ∧ bits w0 8 24 = 0 :=
  beq_iff_eq.trans (and_chipSelectMask_eq_iff (op := 0x4))

end

/-! ## The decoder on words that fit a row -/

section
variable {w0 : Word} {rest : List Word}

theorem decode_configure {w1 w2 : Word} (hop : opField w0 = 0x1) (hres : bits w0 17 15 = 0) :
    decode w0 (w1 :: w2 :: rest) = .ok (decodeConfigure w0 w1 w2) := by
  simp [decode, hop, hres]

theorem decode_beginTxn (hop : opField w0 = 0x2) (hres : bits w0 8 24 = 0) (hunit : (unitField w0).toNat < 2) :
    decode w0 rest = .ok (.beginTxn (unitField w0)) := by
  simp [decode, hop, hres, hunit]

theorem decode_transfer (hop : opField w0 = 0x3) (hres : bits w0 16 16 = 0) (hunit : (unitField w0).toNat < 2) :
    decode w0 rest = .ok (.transfer (unitField w0) (byte1Field w0)) := by
  simp [decode, hop, hres, hunit]

theorem decode_endTxn (hop : opField w0 = 0x4) (hres : bits w0 8 24 = 0) (hunit : (unitField w0).toNat < 2) :
    decode w0 rest = .ok (.endTxn (unitField w0)) := by
  simp [decode, hop, hres, hunit]

end

/-- The row of a decoded command: its word 0 fits it, and mnemonic and length agree (30_encoding.md R79). -/
theorem exists_row_of_decode {w0 : Word} {rest : List Word} {i : Instr} (h : decode w0 rest = .ok i) :
    ∃ row ∈ opcodeRows, row.fits w0 = true ∧ row.mnemonic = i.mnemonic ∧ row.length = i.length := by
  obtain ⟨_, _, _, hop, -, hres, rfl⟩ | ⟨hop, hres, hunit, rfl⟩ | ⟨hop, hres, hunit, rfl⟩ | ⟨hop, hres, hunit, rfl⟩ :=
    decode_ok h
  · exact ⟨opcodeRows[0], List.getElem_mem _, configureRow_fits.mpr ⟨hop, hres⟩, rfl, rfl⟩
  · exact ⟨opcodeRows[1], List.getElem_mem _, beginRow_fits.mpr ⟨hop, hunit, hres⟩, rfl, rfl⟩
  · exact ⟨opcodeRows[3], List.getElem_mem _, endRow_fits.mpr ⟨hop, hunit, hres⟩, rfl, rfl⟩
  · exact ⟨opcodeRows[2], List.getElem_mem _, transferRow_fits.mpr ⟨hop, hunit, hres⟩, rfl, rfl⟩

/-- A word 0 that fits a row decodes when CONFIGURE's two operand words stand after it (30_encoding.md R79). -/
theorem exists_decode_of_fits {w0 w1 w2 : Word} {rest : List Word} {row : OpcodeRow} (hrow : row ∈ opcodeRows)
    (hfit : row.fits w0 = true) : ∃ i, decode w0 (w1 :: w2 :: rest) = .ok i := by
  obtain rfl | rfl | rfl | rfl :
      row = opcodeRows[0] ∨ row = opcodeRows[1] ∨ row = opcodeRows[2] ∨ row = opcodeRows[3] := by
    simpa [opcodeRows] using hrow
  · obtain ⟨hop, hres⟩ := configureRow_fits.mp hfit
    exact ⟨_, decode_configure hop hres⟩
  · obtain ⟨hop, hunit, hres⟩ := beginRow_fits.mp hfit
    exact ⟨_, decode_beginTxn hop hres hunit⟩
  · obtain ⟨hop, hunit, hres⟩ := transferRow_fits.mp hfit
    exact ⟨_, decode_transfer hop hres hunit⟩
  · obtain ⟨hop, hunit, hres⟩ := endRow_fits.mp hfit
    exact ⟨_, decode_endTxn hop hres hunit⟩

/-- Settles O3: a decoded word fits its command's row, and each row's fixed bits are the decoder's own conditions. -/
theorem decoderAcceptsExactlyTheOpcodeMap : Obligations.DecoderAcceptsExactlyTheOpcodeMap := by
  intro w0 w1 w2 rest
  refine ⟨⟨?decoded, ?fits⟩, fun i h => exists_row_of_decode h⟩
  case decoded =>
    rintro ⟨i, h⟩
    obtain ⟨row, hrow, hfit, -⟩ := exists_row_of_decode h
    exact ⟨row, hrow, hfit⟩
  case fits =>
    rintro ⟨row, hrow, hfit⟩
    exact exists_decode_of_fits hrow hfit

/-! ## Operands and lengths -/

theorem byte1Field_toNat (w : Word) : (byte1Field w).toNat = w.toNat / 2 ^ 8 % 2 ^ 8 :=
  bits_toNat w 8 8

theorem hwcsField_toNat (w : Word) : (hwcsField w).toNat = w.toNat / 2 ^ 16 % 2 :=
  Nat.toNat_testBit w.toNat 16

/-- A field that reaches bit 31 needs no cut above it. -/
theorem bits_top_toNat (w : Word) {lo len : Nat} (h : lo + len = 32) : (bits w lo len).toNat = w.toNat / 2 ^ lo := by
  have hw : w.toNat < 2 ^ lo * 2 ^ len := by
    rw [← Nat.pow_add, h]; exact w.isLt
  rw [bits_toNat, Nat.mod_eq_of_lt (Nat.div_lt_of_lt_mul hw)]

/-- Settles O6: every operand of a decoded command is a `bits` field, whose value is `bits_toNat`; HWCS is one bit and
FREQ a whole word. -/
theorem operandsArePlainUnsignedFields : Obligations.OperandsArePlainUnsignedFields := by
  intro w0 rest i h
  obtain ⟨w1, w2, tail, -, rfl, -, rfl⟩ | ⟨-, -, -, rfl⟩ | ⟨-, -, -, rfl⟩ | ⟨-, -, -, rfl⟩ := decode_ok h
  · refine ⟨w1, w2, tail, rfl, unitField_toNat w0, byte1Field_toNat w0, hwcsField_toNat w0, ?sck, bits_toNat w1 8 8,
      bits_toNat w1 16 8, bits_top_toNat w1 rfl, rfl⟩
    case sck => rw [bits_toNat, Nat.pow_zero, Nat.div_one]
  · exact unitField_toNat w0
  · exact unitField_toNat w0
  · exact ⟨unitField_toNat w0, byte1Field_toNat w0⟩

theorem encode_length (i : Instr) : (encode i).length = i.length := by
  cases i <;> rfl

/-- Settles O7: the decoder's case on OP fixes the command, and each command's length is a constant. -/
theorem lengthIsFixedByTheOpcodeAlone : Obligations.LengthIsFixedByTheOpcodeAlone := by
  intro w0 rest i h
  refine ⟨?_, encode_length i⟩
  obtain ⟨_, _, _, hop, -, -, rfl⟩ | ⟨hop, -, -, rfl⟩ | ⟨hop, -, -, rfl⟩ | ⟨hop, -, -, rfl⟩ := decode_ok h
  · rw [(opField_eq (n := 1) (by decide)).mp hop]; rfl
  · rw [(opField_eq (n := 2) (by decide)).mp hop]; rfl
  · rw [(opField_eq (n := 4) (by decide)).mp hop]; rfl
  · rw [(opField_eq (n := 3) (by decide)).mp hop]; rfl

end Sys2Proof

/-! # Responses (30_encoding.md R83) -/

namespace Sys2Proof.Machine

/-- Driving or not driving the chip-select pin, BEGIN and END respond with nothing. -/
theorem toggleChipSelect_resp {k : UnitId} {level : Bool} {s t : State} (h : toggleChipSelect k level s = .next t) :
    t.resp = s.resp := by
  obtain rfl | ⟨_, -, -, -, rfl⟩ := toggleChipSelect_next h
  · exact s.advance_resp 1
  · rw [State.advance_resp, State.driveCs_resp]

theorem execBegin_resp {u : BitVec 4} {s t : State} (h : execBegin u s = .next t) : t.resp = s.resp := by
  unfold execBegin at h
  split at h
  · exact toggleChipSelect_resp h
  · cases h; exact s.raiseIllegal_resp _ _

theorem execEnd_resp {u : BitVec 4} {s t : State} (h : execEnd u s = .next t) : t.resp = s.resp := by
  unfold execEnd at h
  split at h
  · exact toggleChipSelect_resp h
  · cases h; exact s.raiseIllegal_resp _ _

/-- Settles O10: the words are zero-extensions, and neither BEGIN nor END has a next state with another response list. -/
theorem responsesAsWords : Obligations.ResponsesAsWords := by
  refine ⟨?ok, ?byte, fun u s t h => h.elim execBegin_resp execEnd_resp⟩
  case ok => decide
  case byte => exact fun r => BitVec.toNat_setWidth_of_le (by decide)

end Sys2Proof.Machine

/-! # CONFIGURE: the validator and the rejection (40_configure.md R91 to R94, R111) -/

namespace Sys2Proof.Machine

section
variable {s : State} {u : BitVec 4} {sck tx rx cs : Byte} {freqReq : BitVec 32} {mode : BitVec 8} {hwcs : Bool}

theorem unitOf_eq_some_iff_toNat {k : UnitId} : unitOf u = some k ↔ u.toNat = k.field.toNat :=
  unitOf_eq_some.trans BitVec.toNat_inj.symm

/-- Every mapped pin of a ready platform is below NPINS (00_scope.md R13), so the bound in InRole adds nothing to
membership. -/
theorem State.inRole_iff_mem (hready : PlatformReady s) {k : UnitId} {r : Role} {p : Byte} :
    s.inRole k r p = true ↔ p ∈ (s.plat.pinmap.get k).get r :=
  State.inRole_eq.trans (and_iff_left_of_imp (hready.pin_lt k r p))

/-- Of the three cases of CONFIGURE only the rejection is not valid. -/
theorem execConfigure_of_invalid (hinvalid : s.valid u sck tx rx cs mode = false) :
    execConfigure u sck tx rx cs freqReq mode hwcs s = .next (finishConfigure false s) := by
  obtain ⟨-, hrejected⟩ | ⟨hvalid, -⟩ | ⟨_, -, hvalid, -⟩ :=
    execConfigure_cases u sck tx rx cs freqReq mode hwcs s
  · exact hrejected
  · exact absurd hvalid (Bool.eq_false_iff.mp hinvalid)
  · exact absurd hvalid (Bool.eq_false_iff.mp hinvalid)

theorem finishConfigure_eq (b : Bool) (s : State) :
    finishConfigure b s = { s with resp := s.resp ++ [.ok b], cp := s.cp + 3 } := rfl

end

/-- Settles O31: `State.valid_eq` gives the conjunction, in which UNIT is compared by number and each role check is
membership in its PINMAP set. -/
theorem validatorIsRoleMembership : Obligations.ValidatorIsRoleMembership := by
  intro s u sck tx rx cs mode hready
  have hunit (k : UnitId) : unitOf u = some k ↔ u.toNat = match k with | .unit0 => 0 | .unit1 => 1 := by
    cases k <;> exact unitOf_eq_some_iff_toNat
  simp only [State.valid_eq, State.inRole_iff_mem hready]
  constructor
  · rintro ⟨k, hk, hmode, hroles⟩
    exact ⟨hmode, k, (hunit k).mp hk, hroles⟩
  · rintro ⟨hmode, k, hk, hroles⟩
    exact ⟨k, (hunit k).mpr hk, hmode, hroles⟩

/-- Settles O37: the rejection is the end of CONFIGURE alone, which writes `resp` and `cp`. -/
theorem invalidConfigureOnlyAnswersFalse : Obligations.InvalidConfigureOnlyAnswersFalse := by
  intro s u sck tx rx cs freqReq mode hwcs hinvalid
  rw [← finishConfigure_eq]
  exact execConfigure_of_invalid hinvalid

end Sys2Proof.Machine

/-! # The words of BEGIN and END (30_encoding.md R76) -/

namespace Sys2Proof

/-- The fields of a word that holds OP and the UNIT of `k` and nothing else (30_encoding.md R76). -/
theorem commandWord_fields {w0 : Word} {op : BitVec 4} {k : UnitId}
    (hw : w0 = op.setWidth 32 + 0x10 * k.field.setWidth 32) :
    opField w0 = op ∧ unitField w0 = k.field ∧ bits w0 8 24 = 0 := by
  subst hw
  cases k <;> decide +revert

theorem UnitId.field_lt_two (k : UnitId) : k.field.toNat < 2 := by
  cases k <;> decide

theorem decode_beginWord (k : UnitId) (rest : List Word) :
    decode (0x2 + 0x10 * k.field.setWidth 32) rest = .ok (.beginTxn k.field) := by
  obtain ⟨hop, hunit, hres⟩ := commandWord_fields (w0 := 0x2 + 0x10 * k.field.setWidth 32) (op := 0x2) rfl
  rw [decode_beginTxn hop hres (by rw [hunit]; exact k.field_lt_two), hunit]

theorem decode_endWord (k : UnitId) (rest : List Word) :
    decode (0x4 + 0x10 * k.field.setWidth 32) rest = .ok (.endTxn k.field) := by
  obtain ⟨hop, hunit, hres⟩ := commandWord_fields (w0 := 0x4 + 0x10 * k.field.setWidth 32) (op := 0x4) rfl
  rw [decode_endTxn hop hres (by rw [hunit]; exact k.field_lt_two), hunit]

end Sys2Proof

/-! # BEGIN and END (41_transaction.md R130, R131) -/

namespace Sys2Proof.Machine

theorem exec_beginTxn_field (k : UnitId) (s : State) : exec (.beginTxn k.field) s = toggleChipSelect k false s := by
  simp only [exec, execBegin, unitOf_field, Config.csActive]

theorem exec_endTxn_field (k : UnitId) (s : State) : exec (.endTxn k.field) s = toggleChipSelect k true s := by
  simp only [exec, execEnd, unitOf_field, Config.csIdle]

section
variable {s : State} {k : UnitId} {level : Bool} {b : Binding}

theorem toggleChipSelect_of_unconfigured (hc : (s.cfg.get k).configured = false) :
    toggleChipSelect k level s = .next (s.advance 1) := by
  simp only [toggleChipSelect, State.binding?_eq_none.mpr hc]

theorem toggleChipSelect_of_automated (hb : s.binding? k = some b) (hw : b.hwcs = true) :
    toggleChipSelect k level s = .next (s.advance 1) := by
  simp only [toggleChipSelect, hb, if_pos hw]

theorem toggleChipSelect_of_software (hb : s.binding? k = some b) (hw : b.hwcs = false)
    (hp : b.pinCs.toNat < s.nPins) :
    toggleChipSelect k level s = .next ((s.driveCs k b.pinCs level).advance 1) := by
  simp only [toggleChipSelect, hb, hw, Bool.false_eq_true, if_false, if_pos hp]

end

/-- Settles O45: BEGIN is the chip-select toggle at the low level, and its three cases are the toggle's,
which writes one pin's `out`, `bus` and `cp`. -/
theorem beginDrivesChipSelectLowOrDoesNothing : Obligations.BeginDrivesChipSelectLowOrDoesNothing := by
  intro s k
  rw [exec_beginTxn_field]
  refine ⟨decode_beginWord k, toggleChipSelect_of_unconfigured, fun b hc hbind => ?_⟩
  have hb : s.binding? k = some b := State.binding?_eq_some.mpr ⟨hc, hbind⟩
  exact ⟨toggleChipSelect_of_automated hb, toggleChipSelect_of_software hb⟩

/-- Settles O46: END is the chip-select toggle at the high level, and its three cases are the toggle's,
which writes one pin's `out`, `bus` and `cp`. -/
theorem endDrivesChipSelectHighOrDoesNothing : Obligations.EndDrivesChipSelectHighOrDoesNothing := by
  intro s k
  rw [exec_endTxn_field]
  refine ⟨decode_endWord k, toggleChipSelect_of_unconfigured, fun b hc hbind => ?_⟩
  have hb : s.binding? k = some b := State.binding?_eq_some.mpr ⟨hc, hbind⟩
  exact ⟨toggleChipSelect_of_automated hb, toggleChipSelect_of_software hb⟩

end Sys2Proof.Machine

/-! # TRANSFER at READY (41_transaction.md R132, R134) -/

namespace Sys2Proof.Machine

/-- The two cases of TRANSFER on a unit: the immediate answer and the issue step (41_transaction.md R139). -/
theorem exec_transfer_field (k : UnitId) (d : Byte) (s : State) :
    exec (.transfer k.field d) s =
      if (s.cfg.get k).configured then .next (issue k d s) else .next ((s.respond (.byte 0x00)).advance 1) := by
  simp only [exec, execTransfer, unitOf_field]

/-- DATA bits [7:0] of a byte's word are the byte (10_state.md R34). -/
theorem setWidth_zext32 (d : Byte) : (zext32 d).setWidth 8 = d :=
  (BitVec.setWidth_setWidth_of_le d (by decide)).trans (BitVec.setWidth_eq d)

/-- The issue step in every field (41_transaction.md R134). -/
theorem issue_eq (k : UnitId) (d : Byte) (s : State) :
    issue k d s =
      { s with
        per := s.per.set k { s.per.get k with txq := (s.per.get k).txq ++ [d] }
        reg := s.reg.set k { s.reg.get k with busy := true }
        phase := .poll k d } := by
  simp only [issue, State.writeData, setWidth_zext32]
  rfl

/-- Settles O50: an unconfigured unit takes TRANSFER's immediate answer, which writes `resp` and `cp`. -/
theorem unconfiguredTransferAnswersZero : Obligations.UnconfiguredTransferAnswersZero := by
  intro s k d hc
  rw [exec_transfer_field, hc]
  rfl

/-- Settles O51: a configured unit takes the issue step, whose word written to DATA is the byte again. -/
theorem configuredTransferIssuesItsByte : Obligations.ConfiguredTransferIssuesItsByte := by
  intro s k d hc
  rw [exec_transfer_field, if_pos hc, issue_eq]

end Sys2Proof.Machine

/-! # The end of the run (70_reset_and_hazards.md R186) -/

namespace Sys2Proof

/-- There are two units, so a property of every unit's value is one of the two values. -/
theorem Units.forall_get {α : Type} {x : Units α} {p : α → Prop} : (∀ k, p (x.get k)) ↔ p x.x0 ∧ p x.x1 :=
  ⟨fun h => ⟨h .unit0, h .unit1⟩, fun ⟨h0, h1⟩ k => by cases k; exacts [h0, h1]⟩

namespace Machine

/-- A final state as 70_reset_and_hazards.md R186 lists its conditions, the last one for each unit. -/
theorem State.final_iff {s : State} :
    s.final = true ↔ s.phase = .ready ∧ s.cp = s.cmd.length ∧ s.fault = none ∧ s.refused = none ∧
      ∀ k, (s.per.get k).txq = [] ∧ (s.per.get k).shift = none := by
  rw [Units.forall_get (p := fun per : UnitPer => per.txq = [] ∧ per.shift = none)]
  simp only [State.final, Bool.and_eq_true, decide_eq_true_eq, Option.isNone_iff_eq_none, List.isEmpty_iff, and_assoc]

/-- In READY with no command word left the controller has no step (10_state.md R28). -/
theorem controllerEnabled_of_no_word {s : State} (ready : s.phase = .ready) (noWord : s.cmd.length ≤ s.cp) :
    controllerEnabled s = false := by
  simp [controllerEnabled, ready, noWord]

/-- With nothing queued and no frame in flight a peripheral has no step (41_transaction.md R136, R137). -/
theorem agentEnabled_peripheral_of_idle {s : State} {k : UnitId} (noneQueued : (s.per.get k).txq = [])
    (noFrame : (s.per.get k).shift = none) : agentEnabled s (.peripheral k) = false := by
  simp [agentEnabled, frameStartEnabled, frameEndEnabled, noneQueued, noFrame]

/-- A final state leaves no agent a step: no word for the controller, nothing pending for a peripheral. -/
theorem agentEnabled_of_final {s : State} (h : s.final = true) (a : Agent) : agentEnabled s a = false := by
  obtain ⟨ready, atEnd, -, -, idle⟩ := State.final_iff.mp h
  cases a with
  | controller => exact controllerEnabled_of_no_word ready atEnd.ge
  | peripheral k => exact agentEnabled_peripheral_of_idle (idle k).1 (idle k).2

/-- Settles O16: the listed conditions are `State.final_iff`; with no agent enabled the machine stops, and a stop is no
next state. -/
theorem finalStatesAreTheEndOfTheRun : Obligations.FinalStatesAreTheEndOfTheRun := by
  intro env s
  refine ⟨State.final_iff, fun hfinal t hnext => ?_⟩
  obtain ⟨-, hstop⟩ | ⟨a, ha, -⟩ := stepUnder_cases env s
  · exact stop_ne_next s t (hstop ▸ hnext)
  · rw [agentEnabled_of_final hfinal a] at ha
    cases ha

end Machine

end Sys2Proof

/-! # The round trips of the command encoding (30_encoding.md R72 to R82) -/

namespace Sys2Proof

/-! ## Words put together from their fields -/

/-- Two neighbouring fields joined are one field. -/
theorem bits_append_bits (w : Word) (lo a b : Nat) : bits w (lo + a) b ++ bits w lo a = bits w lo (b + a) :=
  BitVec.extractLsb'_append_extractLsb'_eq_extractLsb' rfl

theorem ofBool_getLsbD (w : Word) (i : Nat) : BitVec.ofBool (w.getLsbD i) = bits w i 1 := by
  simp [bits, BitVec.eq_of_getElem_eq_iff]

/-- A word is its upper half, its second byte, UNIT and OP (30_encoding.md R70, R77). -/
theorem word0_eq_fields (w : Word) : bits w 16 16 ++ byte1Field w ++ unitField w ++ opField w = w := by
  rw [byte1Field, bits_append_bits w 8 8 16, unitField, bits_append_bits w 4 4, opField, bits_append_bits w 0 4]
  exact BitVec.extractLsb'_eq_self

theorem word0_eq_top_fields (w : Word) : bits w 8 24 ++ unitField w ++ opField w = w := by
  rw [unitField, bits_append_bits w 4 4, opField, bits_append_bits w 0 4]
  exact BitVec.extractLsb'_eq_self

theorem word_eq_bytes (w : Word) : bits w 24 8 ++ bits w 16 8 ++ bits w 8 8 ++ bits w 0 8 = w := by
  rw [bits_append_bits w 16 8, bits_append_bits w 8 8, bits_append_bits w 0 8]
  exact BitVec.extractLsb'_eq_self

/-! ## Encoding what was decoded -/

section
variable {w0 : Word}

theorem encode_decodeConfigure (w1 w2 : Word) (hop : opField w0 = 0x1) (hres : bits w0 17 15 = 0) :
    encode (decodeConfigure w0 w1 w2) = [w0, w1, w2] := by
  have hword0 : encodeWord0 (decodeConfigure w0 w1 w2) = w0 :=
    calc (0 : BitVec 15) ++ BitVec.ofBool (hwcsField w0) ++ byte1Field w0 ++ unitField w0 ++ (0x1 : BitVec 4)
      _ = bits w0 17 15 ++ bits w0 16 1 ++ byte1Field w0 ++ unitField w0 ++ opField w0 := by
          rw [hres, hop, hwcsField, ofBool_getLsbD]
      _ = w0 := by rw [bits_append_bits w0 16 1]; exact word0_eq_fields w0
  have hpins : bits w1 24 8 ++ bits w1 16 8 ++ bits w1 8 8 ++ bits w1 0 8 = w1 := word_eq_bytes w1
  rw [encode, hword0, decodeConfigure, encodeOperands, hpins]

theorem encodeWord0_beginTxn_unitField (hop : opField w0 = 0x2) (hres : bits w0 8 24 = 0) :
    encodeWord0 (.beginTxn (unitField w0)) = w0 := by
  rw [encodeWord0, ← hop, ← hres]
  exact word0_eq_top_fields w0

theorem encodeWord0_endTxn_unitField (hop : opField w0 = 0x4) (hres : bits w0 8 24 = 0) :
    encodeWord0 (.endTxn (unitField w0)) = w0 := by
  rw [encodeWord0, ← hop, ← hres]
  exact word0_eq_top_fields w0

theorem encodeWord0_transfer_of_fields (hop : opField w0 = 0x3) (hres : bits w0 16 16 = 0) :
    encodeWord0 (.transfer (unitField w0) (byte1Field w0)) = w0 := by
  rw [encodeWord0, ← hop, ← hres]
  exact word0_eq_fields w0

end

/-- Settles O2: in each case of the decoder its checks fix the bits that no operand holds, so the fields put together
again are the words read. -/
theorem encodeOfDecodedWordsIsThoseWords : Obligations.EncodeOfDecodedWordsIsThoseWords := by
  intro w0 rest i h
  obtain ⟨w1, w2, tail, hop, rfl, hres, rfl⟩ | ⟨hop, hres, hunit, rfl⟩ | ⟨hop, hres, hunit, rfl⟩ |
    ⟨hop, hres, hunit, rfl⟩ := decode_ok h
  · exact ⟨rfl, encode_decodeConfigure w1 w2 hop hres⟩
  · exact ⟨decide_eq_true hunit, congrArg (· :: []) (encodeWord0_beginTxn_unitField hop hres)⟩
  · exact ⟨decide_eq_true hunit, congrArg (· :: []) (encodeWord0_endTxn_unitField hop hres)⟩
  · exact ⟨decide_eq_true hunit, congrArg (· :: []) (encodeWord0_transfer_of_fields hop hres)⟩

/-! ## Decoding what was encoded -/

/-- The fields of CONFIGURE's word 0 (30_encoding.md R72). -/
theorem encodeWord0_configure_fields (u : BitVec 4) (sck tx rx cs : Byte) (freqReq : BitVec 32) (mode : BitVec 8)
    (hwcs : Bool) :
    let w0 := encodeWord0 (.configure u sck tx rx cs freqReq mode hwcs)
    opField w0 = 0x1 ∧ bits w0 17 15 = 0 ∧ unitField w0 = u ∧ byte1Field w0 = mode ∧ hwcsField w0 = hwcs := by
  refine ⟨?op, ?reserved, ?unit, ?mode, ?hwcs⟩
  case hwcs => simp only [hwcsField, encodeWord0, BitVec.getLsbD_append]; cases hwcs <;> rfl
  all_goals
    simp (disch := decide) only [opField, unitField, byte1Field, bits, encodeWord0,
      BitVec.extractLsb'_append_eq_of_le, BitVec.extractLsb'_append_eq_of_add_le, Nat.reduceSub,
      BitVec.extractLsb'_eq_self]

/-- The fields of a word of format S, BEGIN and END (30_encoding.md R76). -/
theorem formatS_fields (u op : BitVec 4) :
    let w0 : Word := (0 : BitVec 24) ++ u ++ op
    opField w0 = op ∧ bits w0 8 24 = 0 ∧ unitField w0 = u := by
  refine ⟨?op, ?reserved, ?unit⟩
  all_goals
    simp (disch := decide) only [opField, unitField, bits, BitVec.extractLsb'_append_eq_of_le,
      BitVec.extractLsb'_append_eq_of_add_le, Nat.reduceSub, BitVec.extractLsb'_eq_self]

/-- The fields of TRANSFER's word (30_encoding.md R77). -/
theorem encodeWord0_transfer_fields (u : BitVec 4) (d : Byte) :
    let w0 := encodeWord0 (.transfer u d)
    opField w0 = 0x3 ∧ bits w0 16 16 = 0 ∧ unitField w0 = u ∧ byte1Field w0 = d := by
  refine ⟨?op, ?reserved, ?unit, ?data⟩
  all_goals
    simp (disch := decide) only [opField, unitField, byte1Field, bits, encodeWord0,
      BitVec.extractLsb'_append_eq_of_le, BitVec.extractLsb'_append_eq_of_add_le, Nat.reduceSub,
      BitVec.extractLsb'_eq_self]

/-- The bytes of the pin word (30_encoding.md R73), and of every little-endian word. -/
theorem bits_wordOfBytes (b0 b1 b2 b3 : Byte) :
    let w := wordOfBytes b0 b1 b2 b3
    bits w 0 8 = b0 ∧ bits w 8 8 = b1 ∧ bits w 16 8 = b2 ∧ bits w 24 8 = b3 := by
  refine ⟨?_, ?_, ?_, ?_⟩
  all_goals
    simp (disch := decide) only [bits, wordOfBytes, BitVec.extractLsb'_append_eq_of_le,
      BitVec.extractLsb'_append_eq_of_add_le, Nat.reduceSub, BitVec.extractLsb'_eq_self]

/-- Settles O1: word 0 has the OP, the zero reserved bits and the UNIT that the decoder checks for the command, and its
fields are the operands. -/
theorem decodeOfEncodedCommandIsThatCommand : Obligations.DecodeOfEncodedCommandIsThatCommand := by
  intro i rest hwf
  cases i with
  | configure u sck tx rx cs freqReq mode hwcs =>
    obtain ⟨hop, hres, hunit, hmode, hhwcs⟩ := encodeWord0_configure_fields u sck tx rx cs freqReq mode hwcs
    obtain ⟨hsck, htx, hrx, hcs⟩ := bits_wordOfBytes sck tx rx cs
    refine (decode_configure hop hres).trans ?_
    rw [decodeConfigure, hunit, hmode, hhwcs]
    exact congrArg _ (by rw [← wordOfBytes, hsck, htx, hrx, hcs])
  | beginTxn u =>
    obtain ⟨hop, hres, hunit⟩ := formatS_fields u 0x2
    rw [encodeWord0, decode_beginTxn hop hres (by rw [hunit]; exact of_decide_eq_true hwf), hunit]
  | transfer u d =>
    obtain ⟨hop, hres, hunit, hdata⟩ := encodeWord0_transfer_fields u d
    rw [decode_transfer hop hres (by rw [hunit]; exact of_decide_eq_true hwf), hunit, hdata]
  | endTxn u =>
    obtain ⟨hop, hres, hunit⟩ := formatS_fields u 0x4
    rw [encodeWord0, decode_endTxn hop hres (by rw [hunit]; exact of_decide_eq_true hwf), hunit]

/-! ## The opcode map and the illegal words -/

/-- Every row fixes the four bits of OP. -/
theorem opField_of_fits {row : OpcodeRow} {w0 : Word} (hrow : row ∈ opcodeRows) (hfit : row.fits w0 = true) :
    opField w0 = opField row.pattern := by
  have hmask : bits row.mask 0 4 = BitVec.allOnes 4 := by clear hfit; revert row; decide
  have hpattern : w0 &&& row.mask = row.pattern := beq_iff_eq.mp hfit
  rw [← hpattern, opField, opField, bits_and_of_kept hmask]

/-- Settles O4: a word has one OP, and no two rows have the same. -/
theorem opcodeRowsNeverOverlap : Obligations.OpcodeRowsNeverOverlap := by
  have hinj : ∀ a ∈ opcodeRows, ∀ b ∈ opcodeRows, opField a.pattern = opField b.pattern → a = b := by decide
  intro w0 a ha b hb hfa hfb
  exact hinj a ha b hb ((opField_of_fits ha hfa).symm.trans (opField_of_fits hb hfb))

/-- Settles O5: the decoder's conditions as conditions on numbers, then one leaf of the decoder for each branch. -/
theorem illegalWordsAndTheirCauses : Obligations.IllegalWordsAndTheirCauses := by
  intro w0 rest op unit
  have op1 : opField w0 = 0x1 ↔ op = 1 := opField_eq (n := 1) (by decide)
  have op2 : opField w0 = 0x2 ↔ op = 2 := opField_eq (n := 2) (by decide)
  have op3 : opField w0 = 0x3 ↔ op = 3 := opField_eq (n := 3) (by decide)
  have op4 : opField w0 = 0x4 ↔ op = 4 := opField_eq (n := 4) (by decide)
  have res8 : bits w0 8 24 = 0 ↔ w0.toNat < 2 ^ 8 := bits_top_eq_zero rfl
  have res16 : bits w0 16 16 = 0 ↔ w0.toNat < 2 ^ 16 := bits_top_eq_zero rfl
  have res17 : bits w0 17 15 = 0 ↔ w0.toNat < 2 ^ 17 := bits_top_eq_zero rfl
  have hunit : (unitField w0).toNat = unit := unitField_toNat w0
  simp only [decode, op1, op2, op3, op4, ne_eq, res8, res16, res17, hunit]
  clear_value op unit
  split
  · rcases rest with _ | ⟨w1, _ | ⟨w2, tail⟩⟩
    · simp; omega
    · simp; omega
    · dsimp only
      split <;> simp <;> omega
  · split_ifs <;> simp <;> omega

section
variable {w0 : Word} {rest : List Word}

theorem decode_formatS_absent_unit (hop : opField w0 = 0x2 ∨ opField w0 = 0x4) (hres : bits w0 8 24 = 0)
    (hunit : 2 ≤ (unitField w0).toNat) : decode w0 rest = .error .unsupportedUnit := by
  obtain hop | hop := hop <;> simp [decode, hop, hres, hunit]

theorem decode_transfer_absent_unit (hop : opField w0 = 0x3) (hres : bits w0 16 16 = 0)
    (hunit : 2 ≤ (unitField w0).toNat) : decode w0 rest = .error .unsupportedUnit := by
  simp [decode, hop, hres, hunit]

end

/-- BEGIN, TRANSFER and END of a unit 2 to 15, spelled in a word, are illegal (30_encoding.md R81 (c)). -/
theorem decode_encodeWord0_of_absent_unit {u : BitVec 4} (hu : 2 ≤ u.toNat) (d : Byte) {i : Instr}
    (hi : i = .beginTxn u ∨ i = .transfer u d ∨ i = .endTxn u) (rest : List Word) :
    decode (encodeWord0 i) rest = .error .unsupportedUnit := by
  obtain rfl | rfl | rfl := hi
  · obtain ⟨hop, hres, hunit⟩ := formatS_fields u 0x2
    exact decode_formatS_absent_unit (.inl hop) hres (hunit.symm ▸ hu)
  · obtain ⟨hop, hres, hunit, -⟩ := encodeWord0_transfer_fields u d
    exact decode_transfer_absent_unit hop hres (hunit.symm ▸ hu)
  · obtain ⟨hop, hres, hunit⟩ := formatS_fields u 0x4
    exact decode_formatS_absent_unit (.inr hop) hres (hunit.symm ▸ hu)

/-- Settles O8: the decoder computes each of them. -/
theorem workedEncodingsDecode : Obligations.WorkedEncodingsDecode :=
  ⟨rfl, rfl, rfl, rfl⟩

/-! ## A stream carried as bytes (20_memory.md R52) -/

theorem wordOfBytes_bits (w : Word) : wordOfBytes (bits w 0 8) (bits w 8 8) (bits w 16 8) (bits w 24 8) = w :=
  word_eq_bytes w

theorem bytesOfWord_wordOfBytes (b0 b1 b2 b3 : Byte) : bytesOfWord (wordOfBytes b0 b1 b2 b3) = [b0, b1, b2, b3] := by
  obtain ⟨h0, h1, h2, h3⟩ := bits_wordOfBytes b0 b1 b2 b3
  rw [bytesOfWord, h0, h1, h2, h3]

theorem bytesOfWords_cons (w : Word) (ws : List Word) : bytesOfWords (w :: ws) = bytesOfWord w ++ bytesOfWords ws :=
  List.flatMap_cons

theorem wordsOfBytes_bytesOfWords (ws : List Word) : wordsOfBytes (bytesOfWords ws) = some ws := by
  induction ws with
  | nil => rfl
  | cons w ws ih =>
    have hread : wordsOfBytes (bytesOfWord w ++ bytesOfWords ws) =
        (wordsOfBytes (bytesOfWords ws)).map (wordOfBytes (bits w 0 8) (bits w 8 8) (bits w 16 8) (bits w 24 8) :: ·) :=
      rfl
    rw [bytesOfWords_cons, hread, ih, wordOfBytes_bits, Option.map_some]

theorem bytesOfWords_of_wordsOfBytes {bs : List Byte} {ws : List Word} (h : wordsOfBytes bs = some ws) :
    bytesOfWords ws = bs := by
  induction bs using wordsOfBytes.induct generalizing ws with
  | case1 => cases h; rfl
  | case2 b0 b1 b2 b3 rest ih =>
    obtain ⟨tail, htail, rfl⟩ := Option.map_eq_some_iff.mp h
    rw [bytesOfWords_cons, bytesOfWord_wordOfBytes, ih htail]
    rfl
  | case3 bs hnil hfour => simp [wordsOfBytes] at h

theorem toNat_append_eq {m n : Nat} (x : BitVec m) (y : BitVec n) : (x ++ y).toNat = 2 ^ n * x.toNat + y.toNat := by
  rw [BitVec.toNat_append, ← Nat.shiftLeft_add_eq_or_of_lt y.isLt, Nat.shiftLeft_eq, Nat.mul_comm]

theorem wordOfBytes_toNat (b0 b1 b2 b3 : Byte) :
    (wordOfBytes b0 b1 b2 b3).toNat = b0.toNat + 2 ^ 8 * b1.toNat + 2 ^ 16 * b2.toNat + 2 ^ 24 * b3.toNat := by
  simp only [wordOfBytes, toNat_append_eq]
  omega

/-- Settles O9: a word's four bytes give the word and the other way round, so both directions are inductions over the
stream. -/
theorem byteCarriageIsLittleEndianBothWays : Obligations.ByteCarriageIsLittleEndianBothWays :=
  ⟨wordsOfBytes_bytesOfWords, fun _ _ => bytesOfWords_of_wordsOfBytes, wordOfBytes_toNat⟩

end Sys2Proof

/-! # BEGIN and END outside their cases (30_encoding.md R81 (c), 00_scope.md R13) -/

namespace Sys2Proof.Machine

theorem toggleChipSelect_of_absent_pin {s : State} {k : UnitId} {level : Bool} {b : Binding}
    (hb : s.binding? k = some b) (hw : b.hwcs = false) (hp : s.nPins ≤ b.pinCs.toNat) :
    toggleChipSelect k level s = .fault (.noSuchPin b.pinCs) := by
  simp only [toggleChipSelect, hb, hw, Bool.false_eq_true, if_false, if_neg hp.not_gt]

/-- Settles O48: BEGIN and END are the chip-select toggle, which stops at an absent pin. -/
theorem absentChipSelectPinStopsBeginAndEnd : Obligations.AbsentChipSelectPinStopsBeginAndEnd := by
  intro s k b hc hbind hw hp
  have hb : s.binding? k = some b := State.binding?_eq_some.mpr ⟨hc, hbind⟩
  rw [exec_beginTxn_field, exec_endTxn_field]
  exact ⟨toggleChipSelect_of_absent_pin hb hw hp, toggleChipSelect_of_absent_pin hb hw hp⟩

/-- Settles O49: each of the three commands raises the fault where its UNIT names no unit, and the decoder gives their
words the same cause. -/
theorem unitlessCommandsRaiseUnsupportedUnit : Obligations.UnitlessCommandsRaiseUnsupportedUnit := by
  intro s u d i hu hi
  refine ⟨?exec, decode_encodeWord0_of_absent_unit hu d hi []⟩
  have hnone : unitOf u = none := unitOf_eq_none.mpr hu
  obtain rfl | rfl | rfl := hi
  · simp only [exec, execBegin, hnone]; rfl
  · simp only [exec, execTransfer, hnone]; rfl
  · simp only [exec, execEnd, hnone]; rfl

end Sys2Proof.Machine

/-! # Poll, collect and the frame steps (41_transaction.md R135 to R138) -/

namespace Sys2Proof.Machine

section
variable {env : Env} {s : State} {k : UnitId}

theorem pollStep_of_busy (hbusy : (s.reg.get k).busy = true) : pollStep k s = s :=
  if_pos hbusy

theorem pollStep_of_idle (hidle : (s.reg.get k).busy = false) : pollStep k s = { s with phase := .collect k } :=
  if_neg (Bool.not_eq_true _ ▸ hidle)

/-- The collect step in every field, a byte waiting (41_transaction.md R138). -/
theorem collectStep_of_waiting {r : Byte} {rest : List Byte} (hrxq : (s.per.get k).rxq = r :: rest) :
    collectStep env k s =
      { s with
        per := s.per.set k { s.per.get k with rxq := rest }
        resp := s.resp ++ [.byte r]
        cp := s.cp + 1
        phase := .ready } := by
  simp only [collectStep, State.readData, hrxq]
  rfl

/-- The collect step in every field, the receive queue empty (log 8). -/
theorem collectStep_of_empty (hrxq : (s.per.get k).rxq = []) :
    collectStep env k s =
      { s with
        resp := s.resp ++ [.byte (env.byte s.draws)]
        cp := s.cp + 1
        phase := .ready
        draws := s.draws + 1 } := by
  simp only [collectStep, State.readData, hrxq]
  rfl

theorem frameStartEnabled_iff : frameStartEnabled k s = true ↔
    (s.per.get k).txq ≠ [] ∧ (s.per.get k).shift = none ∧ (s.reg.get k).ctrl1.enable = true := by
  simp [frameStartEnabled, and_assoc]

theorem frameEndEnabled_iff : frameEndEnabled k s = true ↔ (s.per.get k).shift ≠ none :=
  Option.isSome_iff_ne_none

/-- The frame-start step in every field (41_transaction.md R136). -/
theorem frameStart_of_queued {d : Byte} {rest : List Byte} (htxq : (s.per.get k).txq = d :: rest) :
    frameStart k s =
      { s with
        per := s.per.set k { s.per.get k with txq := rest, shift := some d }
        bus := s.bus ++ [.frameStart k d] } := by
  simp only [frameStart, htxq]
  rfl

/-- The frame-end step in every field (41_transaction.md R137). -/
theorem frameEnd_of_inFlight {d : Byte} (hshift : (s.per.get k).shift = some d) :
    frameEnd env k s =
      { s with
        per := s.per.set k { s.per.get k with rxq := (s.per.get k).rxq ++ [env.byte s.draws], shift := none }
        reg := s.reg.set k { s.reg.get k with busy := false }
        bus := s.bus ++ [.frame k d (env.byte s.draws) (s.csLine env k)]
        draws := s.draws + 1 } := by
  simp only [frameEnd, hshift]
  rfl

/-- With a frame in flight the peripheral ends it. -/
theorem agentStep_of_inFlight {d : Byte} (hshift : (s.per.get k).shift = some d) :
    agentStep env s (.peripheral k) = .next (frameEnd env k s) := by
  have hend : frameEndEnabled k s = true := by rw [frameEndEnabled, hshift]; rfl
  rw [agentStep, peripheralStep, if_pos hend]

/-- With none in flight the peripheral starts one. -/
theorem agentStep_of_noFrame (hshift : (s.per.get k).shift = none) :
    agentStep env s (.peripheral k) = .next (frameStart k s) := by
  have hend : ¬frameEndEnabled k s = true := by rw [frameEndEnabled, hshift]; decide
  rw [agentStep, peripheralStep, if_neg hend]

theorem controllerStep_of_poll {d : Byte} (hphase : s.phase = .poll k d) :
    controllerStep env s = .next (pollStep k s) := by
  simp only [controllerStep, hphase]

theorem controllerStep_of_collect (hphase : s.phase = .collect k) :
    controllerStep env s = .next (collectStep env k s) := by
  simp only [controllerStep, hphase]

end

/-- Settles O52: in POLL the controller polls, and the poll reads BUSY. -/
theorem pollReadsBusyOnly : Obligations.PollReadsBusyOnly := by
  intro env s k d hphase
  rw [controllerStep_of_poll hphase]
  cases hbusy : (s.reg.get k).busy with
  | true => rw [pollStep_of_busy hbusy]; rfl
  | false => rw [pollStep_of_idle hbusy]; rfl

/-- Settles O53: with SHIFT none the peripheral's step is the frame start. -/
theorem frameStartShiftsTheQueueHead : Obligations.FrameStartShiftsTheQueueHead := by
  intro env s k
  refine ⟨frameStartEnabled_iff, fun d rest htxq hshift => ?_⟩
  rw [agentStep_of_noFrame hshift, frameStart_of_queued htxq]

/-- Settles O54: with a frame in flight the peripheral's step is the frame end. -/
theorem frameEndDeliversTheDrawnByte : Obligations.FrameEndDeliversTheDrawnByte := by
  intro env s k
  refine ⟨frameEndEnabled_iff, fun d hshift => ?_⟩
  rw [agentStep_of_inFlight hshift, frameEnd_of_inFlight hshift]
  rfl

/-- Settles O55: an environment that gives `r` at every draw. -/
theorem receivedByteMayBeAnyByte : Obligations.ReceivedByteMayBeAnyByte := by
  intro env s k d r hshift
  refine ⟨fun _ => r, _, agentStep_of_inFlight hshift, ?_⟩
  rw [frameEnd_of_inFlight hshift, Units.get_set_self]

/-- Settles O56: in COLLECT the controller collects the head of RXQ. -/
theorem collectAnswersTheReceivedByte : Obligations.CollectAnswersTheReceivedByte := by
  intro env s k r rest hphase hrxq
  rw [controllerStep_of_collect hphase, collectStep_of_waiting hrxq]

/-- Settles O57: the read of the empty queue answers the drawn byte. -/
theorem emptyReceiveQueueGivesAFreeByte : Obligations.EmptyReceiveQueueGivesAFreeByte := by
  intro env s k hphase hrxq
  rw [controllerStep_of_collect hphase, collectStep_of_empty hrxq]

end Sys2Proof.Machine

/-! # One step of the controller in READY (30_encoding.md R82, 60_exceptions.md R161) -/

namespace Sys2Proof.Machine

section
variable {s : State} {w0 : Word} {rest : List Word}

theorem readyStep_of_ok {i : Instr} (words : s.cmd.drop s.cp = w0 :: rest) (dec : decode w0 rest = .ok i) :
    readyStep s = exec i s := by
  simp only [readyStep, State.fetch, words, dec]

theorem readyStep_of_error {cause : Cause} (words : s.cmd.drop s.cp = w0 :: rest)
    (dec : decode w0 rest = .error cause) : readyStep s = .next (s.raiseIllegal w0 cause) := by
  simp only [readyStep, State.fetch, words, dec]

/-- In READY, unmarked, with a word left and no peripheral step pending, the machine's step is the controller's. -/
theorem stepUnder_of_ready (env : Env) (ready : s.phase = .ready) (noFault : s.fault = none)
    (noRefusal : s.refused = none) (idle : ∀ k, agentEnabled s (.peripheral k) = false)
    (words : s.cmd.drop s.cp = w0 :: rest) : stepUnder env s = readyStep s := by
  have hcontroller : controllerEnabled s = true := by
    simp [controllerEnabled, noFault, noRefusal, ready, cp_lt_of_words words]
  simp only [stepUnder, scheduledStep, enabledAgents_controller hcontroller idle, agentStep, controllerStep, ready]

end

/-- Settles O11: the machine's step is the controller's step in READY, which runs the decoded command. -/
theorem stepRunsTheDecodedCommand : Obligations.StepRunsTheDecodedCommand := by
  intro env s w0 rest i ready noFault noRefusal idle words dec
  have hstep (e : Env) : stepUnder e s = exec i s :=
    (stepUnder_of_ready e ready noFault noRefusal idle words).trans (readyStep_of_ok words dec)
  exact ⟨hstep env, hstep Config.env⟩

/-- Settles O13: the machine's step is the controller's step in READY, which on an illegal word writes the fault
mark. -/
theorem illegalCommandSetsOnlyTheFaultMark : Obligations.IllegalCommandSetsOnlyTheFaultMark := by
  intro env s w0 rest cause ready noFault noRefusal idle words dec
  rw [stepUnder_of_ready env ready noFault noRefusal idle words, readyStep_of_error words dec]
  rfl

/-! ## A word placed at cp -/

theorem drop_placeWords (n : Nat) (new old : List Word) : ∃ tail, (placeWords n new old).drop n = new ++ tail := by
  have hlen : ((old ++ List.replicate (n - old.length) 0).take n).length = n := by
    simp; omega
  exact ⟨old.drop (n + new.length), by rw [placeWords, List.append_assoc, List.drop_left' hlen]⟩

theorem agentEnabled_withFetchWord (s : State) (nbits w : Nat) (k : UnitId) :
    agentEnabled (s.withFetchWord nbits w) (.peripheral k) = false := by
  cases k <;> exact agentEnabled_peripheral_of_idle rfl rfl

/-- Settles O12: the placed words stand at cp and the state decodes them; what follows them in the stream changes
nothing. -/
theorem placedWordIsRunByTheNextStep : Obligations.PlacedWordIsRunByTheNextStep := by
  intro s nbits w i hdec
  refine ⟨?_, rfl⟩
  obtain ⟨tail, htail⟩ := drop_placeWords s.cp (tableWords nbits w) s.cmd
  obtain ⟨w0, w1, w2, htable⟩ : ∃ w0 w1 w2, tableWords nbits w = [w0, w1, w2] := ⟨_, _, _, rfl⟩
  have words : (s.withFetchWord nbits w).cmd.drop (s.withFetchWord nbits w).cp = w0 :: w1 :: w2 :: tail :=
    htail.trans (congrArg (· ++ tail) htable)
  have dec : decode w0 (w1 :: w2 :: tail) = .ok i := by
    rw [decode_append]
    rw [decodeTableWord, htable] at hdec
    cases h : decode w0 [w1, w2] with
    | ok j => simpa [h, Except.toOption] using hdec
    | error cause => simp [h, Except.toOption] at hdec
  exact (stepUnder_of_ready Config.env rfl rfl rfl (agentEnabled_withFetchWord s nbits w) words).trans
    (readyStep_of_ok words dec)

end Sys2Proof.Machine

/-! # What every step keeps (10_state.md R21, R28, R38, R42, R43, 60_exceptions.md R167, R169) -/

namespace Sys2Proof.Machine

/-! ## A step as one agent's move -/

/-- A next state is the step of an enabled agent, the model's count of choices apart (log 5). -/
theorem exists_agentStep_of_stepUnder {env : Env} {s t : State} (h : stepUnder env s = .next t) :
    ∃ a n, agentEnabled s a = true ∧ agentStep env { s with turns := n } a = .next t := by
  obtain ⟨-, hstop⟩ | ⟨a, ha, hstep | hstep⟩ := stepUnder_cases env s
  · exact absurd (hstop ▸ h) (stop_ne_next s t)
  · exact ⟨a, s.turns, ha, hstep ▸ h⟩
  · exact ⟨a, s.turns + 1, ha, hstep ▸ h⟩

/-- Every next state is a move from the state, the model's count of choices apart (log 5). -/
theorem exists_moves_of_stepUnder {env : Env} {s t : State} (h : stepUnder env s = .next t) :
    ∃ n, Moves env { s with turns := n } t :=
  (Moves.of_step h).elim (fun hmove => ⟨s.turns, hmove⟩) (fun hmove => ⟨s.turns + 1, hmove⟩)

/-- Settles O19: the step's agent is the scheduler's choice among the enabled ones. -/
theorem everyStepIsOneEnabledAgents : Obligations.EveryStepIsOneEnabledAgents :=
  fun _ _ _ h => exists_agentStep_of_stepUnder h

theorem chosen_of_turn {env : Env} {s : State} {a first : Agent} (hturn : env.turn s.turns = a)
    (ha : agentEnabled s a = true) : chosen env s first = a := by
  rw [chosen, hturn, if_pos ha]

theorem mem_enabledAgents {s : State} {a : Agent} : a ∈ enabledAgents s ↔ agentEnabled s a = true := by
  refine List.mem_filter.trans (and_iff_right_of_imp fun _ => ?_)
  obtain _ | (_ | _) := a <;> simp

/-- An enabled agent whose turn it is moves, alone enabled or not. -/
theorem stepUnder_of_turn {env : Env} {s : State} {a : Agent} (hturn : env.turn s.turns = a)
    (ha : agentEnabled s a = true) : ∃ n, stepUnder env s = agentStep env { s with turns := n } a := by
  have hmem : a ∈ enabledAgents s := mem_enabledAgents.mpr ha
  match hagents : enabledAgents s with
  | [] => rw [hagents] at hmem; cases hmem
  | [b] =>
    obtain rfl : a = b := List.mem_singleton.mp (hagents ▸ hmem)
    exact ⟨s.turns, by simp only [stepUnder, scheduledStep, hagents]⟩
  | b :: c :: rest =>
    refine ⟨s.turns + 1, ?_⟩
    simp only [stepUnder, scheduledStep, hagents]
    rw [chosen_of_turn hturn ha]
    rfl

/-- Settles O20: in an environment that always chooses the agent it is the agent's turn. -/
theorem everyEnabledAgentMayMoveNext : Obligations.EveryEnabledAgentMayMoveNext := by
  intro env s a ha
  obtain ⟨n, hstep⟩ := stepUnder_of_turn (env := { env with turn := fun _ => a }) rfl ha
  exact ⟨fun _ => a, n, hstep⟩

/-! ## The steps outside READY, with the fields they leave -/

theorem pollStep_eq (k : UnitId) (s : State) : ∃ p, pollStep k s = { s with phase := p } := by
  cases hbusy : (s.reg.get k).busy with
  | true => exact ⟨_, pollStep_of_busy hbusy⟩
  | false => exact ⟨_, pollStep_of_idle hbusy⟩

theorem collectStep_eq (env : Env) (k : UnitId) (s : State) : ∃ p r n, collectStep env k s =
    { s with per := p, resp := s.resp ++ [.byte r], cp := s.cp + 1, phase := .ready, draws := n } := by
  cases hrxq : (s.per.get k).rxq with
  | cons r rest => exact ⟨_, _, _, collectStep_of_waiting hrxq⟩
  | nil => exact ⟨_, _, _, collectStep_of_empty hrxq⟩

/-! ## The marks -/

/-- Only the controller sets a mark, and only where none is set. -/
theorem Moves.marks {env : Env} {s t : State} (h : Moves env s t) :
    (s.fault = none ∧ s.refused = none) ∨ (t.fault = s.fault ∧ t.refused = s.refused) := by
  cases h with
  | illegal _ noFault noRefusal | rejected _ noFault noRefusal | refused _ noFault noRefusal
  | committed _ noFault noRefusal | noEffect _ noFault noRefusal | toggled _ noFault noRefusal
  | zero _ noFault noRefusal | issued _ noFault noRefusal | polled noFault noRefusal
  | collected noFault noRefusal => exact .inl ⟨noFault, noRefusal⟩
  | frameStarted queued => rw [frameStart_of_queued queued]; exact .inr ⟨rfl, rfl⟩
  | frameEnded inFlight => rw [frameEnd_of_inFlight inFlight]; exact .inr ⟨rfl, rfl⟩

theorem stepUnder_marks {env : Env} {s t : State} (h : stepUnder env s = .next t) :
    (s.fault = none ∧ s.refused = none) ∨ (t.fault = s.fault ∧ t.refused = s.refused) :=
  have ⟨_, hmove⟩ := exists_moves_of_stepUnder h
  hmove.marks

/-- Settles O15: a step that changes a mark starts with none set. -/
theorem marksAreNeverCleared : Obligations.MarksAreNeverCleared := by
  intro env s t h
  obtain ⟨noFault, noRefusal⟩ | ⟨hfault, hrefused⟩ := stepUnder_marks h
  · simp [noFault, noRefusal]
  · exact ⟨fun r hr => hfault.trans hr, fun r hr => hrefused.trans hr⟩

theorem controllerEnabled_of_marked {s : State} (h : s.fault.isSome = true ∨ s.refused.isSome = true) :
    controllerEnabled s = false := by
  refine Bool.eq_false_iff.mpr fun henabled => ?_
  obtain ⟨noFault, noRefusal⟩ := controllerEnabled_marks henabled
  simp [noFault, noRefusal] at h

/-- Settles O14: a mark disables the controller, a peripheral leaves the marks, and with neither the machine stops. -/
theorem markedStateHasNoNextControllerStep : Obligations.MarkedStateHasNoNextControllerStep := by
  intro env s hmarked
  have hcontroller : agentEnabled s .controller = false := controllerEnabled_of_marked hmarked
  refine ⟨hcontroller, fun t h => ?_, fun hidle t h => ?_⟩
  · obtain ⟨noFault, noRefusal⟩ | hkept := stepUnder_marks h
    · simp [noFault, noRefusal] at hmarked
    · exact hkept
  · obtain ⟨a, -, ha, -⟩ := exists_agentStep_of_stepUnder h
    cases a with
    | controller => exact Bool.false_ne_true (hcontroller.symm.trans ha)
    | peripheral k => exact Bool.false_ne_true ((hidle k).symm.trans ha)

/-! ## The command pointer and a pending TRANSFER -/

/-- A change of BUSY alone keeps the registers that CONFIGURE writes. -/
theorem setBusy_keeps_configured {x : Units UnitRegs} (u k : UnitId) (b : Bool) :
    let y := x.set u { x.get u with busy := b }
    (y.get k).ctrl = (x.get k).ctrl ∧ (y.get k).ctrl1 = (x.get k).ctrl1 ∧ (y.get k).prescale = (x.get k).prescale := by
  simp only [Units.get_set]
  split
  · next hk => subst hk; exact ⟨rfl, rfl, rfl⟩
  · exact ⟨rfl, rfl, rfl⟩

/-- Settles O17: outside READY the moves are the poll, the collect and the frame steps. -/
theorem pendingTransferHoldsEveryCommand : Obligations.PendingTransferHoldsEveryCommand := by
  intro env s t pending h
  obtain ⟨n, hmove⟩ := exists_moves_of_stepUnder h
  cases hmove with
  | illegal ready | rejected ready | refused ready | committed ready | noEffect ready | toggled ready | zero ready
  | issued ready => exact absurd ready pending
  | polled =>
    obtain ⟨p, hp⟩ := pollStep_eq _ _
    rw [hp]
    exact ⟨rfl, rfl, rfl, rfl, fun _ => ⟨rfl, rfl, rfl⟩, .inl ⟨rfl, rfl⟩⟩
  | collected _ _ phase =>
    obtain ⟨p, r, n, hp⟩ := collectStep_eq env _ _
    rw [hp]
    exact ⟨rfl, rfl, rfl, rfl, fun _ => ⟨rfl, rfl, rfl⟩, .inr ⟨_, r, phase, rfl, rfl, rfl⟩⟩
  | frameStarted queued =>
    rw [frameStart_of_queued queued]
    exact ⟨rfl, rfl, rfl, rfl, fun _ => ⟨rfl, rfl, rfl⟩, .inl ⟨rfl, rfl⟩⟩
  | frameEnded inFlight =>
    rw [frameEnd_of_inFlight inFlight]
    exact ⟨rfl, rfl, rfl, rfl, fun k => setBusy_keeps_configured _ k false, .inl ⟨rfl, rfl⟩⟩

theorem controllerEnabled_of_poll {s : State} {k : UnitId} {d : Byte} (noFault : s.fault = none)
    (noRefusal : s.refused = none) (phase : s.phase = .poll k d) : controllerEnabled s = true := by
  simp only [controllerEnabled, noFault, noRefusal, phase, Option.isNone_none, Bool.and_self]

/-- A poll of a busy unit changes nothing (41_transaction.md R135). -/
theorem controllerStep_of_busy {env : Env} {s : State} {k : UnitId} {d : Byte} (phase : s.phase = .poll k d)
    (busy : (s.reg.get k).busy = true) : controllerStep env s = .next s := by
  rw [controllerStep_of_poll phase, pollStep_of_busy busy]

/-- Settles O60: where it is always the controller's turn it polls, and a poll of a busy unit changes nothing. -/
theorem pollNeverEndsWhenThePeripheralHangs : Obligations.PollNeverEndsWhenThePeripheralHangs := by
  intro env s k d hang phase busy noFault noRefusal n
  induction n generalizing s with
  | zero => exact ⟨s.turns, rfl⟩
  | succ n ih =>
    have hcontroller : agentEnabled s .controller = true := controllerEnabled_of_poll noFault noRefusal phase
    obtain ⟨m, hstep⟩ := stepUnder_of_turn (hang s.turns) hcontroller
    have hpoll : stepUnder env s = .next { s with turns := m } :=
      hstep.trans (controllerStep_of_busy (s := { s with turns := m }) phase busy)
    simp only [runUnder, hpoll]
    exact ih { s with turns := m } phase busy noFault noRefusal

/-- Where a move takes the command pointer: nowhere, past the command that completes, or past the TRANSFER collected. -/
theorem Moves.cp {env : Env} {s t : State} (h : Moves env s t) : t.cp = s.cp ∨
    (s.phase = .ready ∧ ∃ w0 rest i, s.cmd.drop s.cp = w0 :: rest ∧ decode w0 rest = .ok i ∧ t.cp = s.cp + i.length) ∨
    (∃ k, s.phase = .collect k ∧ t.cp = s.cp + 1) := by
  cases h with
  | illegal | refused | issued => exact .inl rfl
  | rejected ready _ _ words dec => exact .inr (.inl ⟨ready, _, _, _, words, dec, rfl⟩)
  | committed ready _ _ words dec =>
    exact .inr (.inl ⟨ready, _, _, _, words, dec, congrArg (· + 3) (commit_cp _ s)⟩)
  | noEffect ready _ _ words dec one | toggled ready _ _ words dec one =>
    exact .inr (.inl ⟨ready, _, _, _, words, dec, by rw [one]; rfl⟩)
  | zero ready _ _ words dec => exact .inr (.inl ⟨ready, _, _, _, words, dec, rfl⟩)
  | polled =>
    obtain ⟨p, hp⟩ := pollStep_eq _ s
    exact .inl (by rw [hp])
  | collected _ _ phase =>
    obtain ⟨p, r, n, hp⟩ := collectStep_eq env _ s
    exact .inr (.inr ⟨_, phase, by rw [hp]⟩)
  | frameStarted queued => exact .inl (by rw [frameStart_of_queued queued])
  | frameEnded inFlight => exact .inl (by rw [frameEnd_of_inFlight inFlight])

/-- Settles O18: each move that advances cp adds its own command's length, or the collect's one word. -/
theorem commandPointerAdvancesByCommandLength : Obligations.CommandPointerAdvancesByCommandLength := by
  intro env s t h
  obtain ⟨n, hmove⟩ := exists_moves_of_stepUnder h
  exact hmove.cp

/-! ## The history and the response stream -/

/-- A valid CONFIGURE's chip-select pin exists. -/
theorem State.exists_csPin_of_valid {s : State} {u : BitVec 4} {sck tx rx cs : Byte} {mode : BitVec 8}
    (hvalid : s.valid u sck tx rx cs mode = true) : ∃ x, s.pin? cs = some x := by
  obtain ⟨k, -, -, -, -, -, hcs⟩ := State.valid_eq.mp hvalid
  exact State.exists_pin (State.inRole_eq.mp hcs).2

/-- Settles O22: each move appends its own events and at most one response. -/
theorem historyAndResponsesOnlyGrow : Obligations.HistoryAndResponsesOnlyGrow := by
  intro env s t h
  obtain ⟨n, hmove⟩ := exists_moves_of_stepUnder h
  cases hmove with
  | illegal | refused | noEffect | issued => exact ⟨⟨[], (List.append_nil _).symm⟩, .inl rfl⟩
  | rejected | zero => exact ⟨⟨[], (List.append_nil _).symm⟩, .inr ⟨_, rfl⟩⟩
  | committed _ _ _ _ _ valid =>
    obtain ⟨x, hx⟩ := State.exists_csPin_of_valid valid
    exact ⟨⟨_, (commit_bus _ hx).trans (by rw [List.append_assoc, List.append_assoc])⟩,
      .inr ⟨_, congrArg (· ++ _) (commit_resp _ _)⟩⟩
  | toggled => exact ⟨⟨_, rfl⟩, .inl rfl⟩
  | polled =>
    obtain ⟨p, hp⟩ := pollStep_eq _ _
    rw [hp]
    exact ⟨⟨[], (List.append_nil _).symm⟩, .inl rfl⟩
  | collected =>
    obtain ⟨p, r, n, hp⟩ := collectStep_eq env _ _
    rw [hp]
    exact ⟨⟨[], (List.append_nil _).symm⟩, .inr ⟨_, rfl⟩⟩
  | frameStarted queued => rw [frameStart_of_queued queued]; exact ⟨⟨_, rfl⟩, .inl rfl⟩
  | frameEnded inFlight => rw [frameEnd_of_inFlight inFlight]; exact ⟨⟨_, rfl⟩, .inl rfl⟩

/-! ## The bindings -/

/-- Only a CONFIGURE that commits writes CFG, of its own unit, and then it answers Ok(true). -/
theorem Moves.cfg {env : Env} {s t : State} (h : Moves env s t) :
    t.cfg = s.cfg ∨
    ∃ w0 rest k sck tx rx cs freqReq mode hwcs b, s.cmd.drop s.cp = w0 :: rest ∧
      decode w0 rest = .ok (.configure k.field sck tx rx cs freqReq mode hwcs) ∧
      s.valid k.field sck tx rx cs mode = true ∧ t.resp = s.resp ++ [.ok true] ∧
      t.cfg = s.cfg.set k { configured := true, binding := b } := by
  cases h with
  | illegal | rejected | refused | noEffect | toggled | zero | issued => exact .inl rfl
  | committed _ _ _ words dec valid =>
    exact .inr ⟨_, _, _, _, _, _, _, _, _, _, _, words, dec, valid, congrArg (· ++ _) (commit_resp _ s),
      commit_cfg _ s⟩
  | polled =>
    obtain ⟨p, hp⟩ := pollStep_eq _ _
    exact .inl (by rw [hp])
  | collected =>
    obtain ⟨p, r, n, hp⟩ := collectStep_eq env _ s
    exact .inl (by rw [hp])
  | frameStarted queued => exact .inl (by rw [frameStart_of_queued queued])
  | frameEnded inFlight => exact .inl (by rw [frameEnd_of_inFlight inFlight])

/-- Settles O23: the only write of CFG is a commit's, which sets configured of its unit. -/
theorem configuredIsSetOnlyByASuccessfulConfigure : Obligations.ConfiguredIsSetOnlyByASuccessfulConfigure := by
  intro env s t k h
  obtain ⟨n, hmove⟩ := exists_moves_of_stepUnder h
  obtain hcfg | ⟨w0, rest, k', sck, tx, rx, cs, freqReq, mode, hwcs, b, words, dec, valid, hresp, hcfg⟩ := hmove.cfg
  · rw [hcfg]
    exact ⟨id, fun hno hyes => absurd (hyes.symm.trans hno) (by decide)⟩
  · rw [hcfg, Units.get_set]
    split
    · next hk =>
      subst hk
      exact ⟨fun _ => rfl, fun _ _ => ⟨w0, rest, sck, tx, rx, cs, freqReq, mode, hwcs, words, dec, valid, hresp⟩⟩
    · exact ⟨id, fun hno hyes => absurd (hyes.symm.trans hno) (by decide)⟩

/-! ## The registers -/

/-- What no step of the block changes of a unit's registers, ENABLE apart, which none clears (10_state.md R30, R31,
R35). -/
structure UnitRegs.KeepsUnnamed (r r' : UnitRegs) : Prop where
  enable : r.ctrl1.enable = true → r'.ctrl1.enable = true
  lbm : r'.ctrl1.lbm = r.ctrl1.lbm
  ms : r'.ctrl1.ms = r.ctrl1.ms
  sod : r'.ctrl1.sod = r.ctrl1.sod
  reserved : r'.ctrl.reserved = r.ctrl.reserved
  imsc : r'.imsc = r.imsc
  dmacr : r'.dmacr = r.dmacr

theorem UnitRegs.KeepsUnnamed.refl (r : UnitRegs) : r.KeepsUnnamed r :=
  ⟨id, rfl, rfl, rfl, rfl, rfl, rfl⟩

theorem UnitRegs.KeepsUnnamed.get_set {x : Units UnitRegs} {u : UnitId} {r : UnitRegs}
    (h : (x.get u).KeepsUnnamed r) (k : UnitId) : (x.get k).KeepsUnnamed ((x.set u r).get k) := by
  rw [Units.get_set]
  split
  · next hk => exact hk ▸ h
  · exact .refl _

theorem UnitRegs.KeepsUnnamed.busy (r : UnitRegs) (b : Bool) : r.KeepsUnnamed { r with busy := b } :=
  ⟨id, rfl, rfl, rfl, rfl, rfl, rfl⟩

theorem Moves.keepsUnnamed {env : Env} {s t : State} (h : Moves env s t) (k : UnitId) :
    (s.reg.get k).KeepsUnnamed (t.reg.get k) := by
  cases h with
  | illegal | rejected | refused | noEffect | toggled | zero => exact .refl _
  | committed =>
    refine Eq.substr (congrArg (Units.get · k) (commit_reg _ s)) (.get_set ?_ k)
    exact ⟨fun _ => rfl, rfl, rfl, rfl, rfl, rfl, rfl⟩
  | issued => exact .get_set (.busy _ true) k
  | polled =>
    obtain ⟨p, hp⟩ := pollStep_eq _ s
    rw [hp]; exact .refl _
  | collected =>
    obtain ⟨p, r, n, hp⟩ := collectStep_eq env _ s
    rw [hp]; exact .refl _
  | frameStarted queued => rw [frameStart_of_queued queued]; exact .refl _
  | frameEnded inFlight =>
    rw [frameEnd_of_inFlight inFlight]
    exact .get_set (.busy _ false) k

/-- Settles O24: the registers' writes are the commit's named fields and BUSY. -/
theorem unnamedRegisterFieldsKeepTheirValues : Obligations.UnnamedRegisterFieldsKeepTheirValues := by
  intro env s t k h
  obtain ⟨n, hmove⟩ := exists_moves_of_stepUnder h
  obtain ⟨henable, hlbm, hms, hsod, hreserved, himsc, hdmacr⟩ := hmove.keepsUnnamed k
  exact ⟨henable, hlbm, hms, hsod, hreserved, himsc, hdmacr⟩

end Sys2Proof.Machine

/-! # The clamp and the dividers (40_configure.md R96 to R104, 00_scope.md R12) -/

namespace Sys2Proof.Machine

/-- Settles O33: the clamp is the minimum and maximum with the two ends of the range. -/
theorem requestedFrequencyIsClamped : Obligations.RequestedFrequencyIsClamped := by
  intro freqReq
  simp only [clampFreq, clamp, Config.fMin, Config.fMax]
  omega

/-- Settles O35: clearing bit 0 is doubling the half, which shifts the other bits down and up again. -/
theorem evenStepClearsBitZeroOnly : Obligations.EvenStepClearsBitZeroOnly := by
  intro x i
  have hdouble : clearBit0 x = 2 * (x / 2) := by unfold clearBit0; omega
  rw [hdouble]
  cases i with
  | zero => simp [Nat.testBit_zero]
  | succ i => simp [Nat.testBit_add_one]

/-! ## The coarse factor S and the fine divider P -/

section
variable (fSys f : Nat)

theorem divisorsFor_coarse : (divisorsFor fSys f).coarse = (fSys / f + 1 + 253) / 254 := rfl

theorem divisorsFor_fine : (divisorsFor fSys f).fine =
    (fSys / f + 1) / (divisorsFor fSys f).coarse - (fSys / f + 1) / (divisorsFor fSys f).coarse % 2 :=
  congrArg clearBit0 (fineBeforeRounding_eq _ _)

/-- S is the ceiling of N / 254 (40_configure.md R98). -/
theorem divisorsFor_coarse_bounds :
    1 ≤ (divisorsFor fSys f).coarse ∧ fSys / f + 1 ≤ 254 * (divisorsFor fSys f).coarse ∧
      254 * (divisorsFor fSys f).coarse ≤ fSys / f + 1 + 253 := by
  rw [divisorsFor_coarse]
  generalize fSys / f = r
  omega

theorem divisorsFor_coarse_least {m : Nat} (hm : fSys / f + 1 ≤ 254 * m) : (divisorsFor fSys f).coarse ≤ m := by
  obtain ⟨-, -, hfloor⟩ := divisorsFor_coarse_bounds fSys f
  omega

theorem divisorsFor_fine_even : (divisorsFor fSys f).fine % 2 = 0 := by
  rw [divisorsFor_fine]
  omega

theorem divisorsFor_fine_le : (divisorsFor fSys f).fine ≤ 254 := by
  obtain ⟨-, hceil, -⟩ := divisorsFor_coarse_bounds fSys f
  have hquot : (fSys / f + 1) / (divisorsFor fSys f).coarse ≤ 254 := Nat.div_le_of_le_mul (by omega)
  rw [divisorsFor_fine]
  omega

/-- With S = 1 the fine divider is the raw ratio's even part. -/
theorem divisorsFor_fine_of_coarse_one (hone : (divisorsFor fSys f).coarse = 1) :
    (divisorsFor fSys f).fine = fSys / f + 1 - (fSys / f + 1) % 2 := by
  rw [divisorsFor_fine, hone, Nat.div_one]

/-- With S above 1 the raw ratio exceeds 254 (S - 1), so that its quotient by S is at least 127. -/
theorem le_divisorsFor_fine (hmany : 1 < (divisorsFor fSys f).coarse) : 126 ≤ (divisorsFor fSys f).fine := by
  obtain ⟨-, -, hfloor⟩ := divisorsFor_coarse_bounds fSys f
  have hquot : 127 ≤ (fSys / f + 1) / (divisorsFor fSys f).coarse :=
    (Nat.le_div_iff_mul_le (by omega)).mpr (by omega)
  rw [divisorsFor_fine]
  omega

variable {fSys f} in
/-- P is 0 exactly when the raw ratio is 1 (40_configure.md R102 (f)). -/
theorem divisorsFor_fine_eq_zero (hf : 0 < f) : (divisorsFor fSys f).fine = 0 ↔ fSys < f := by
  have hratio : fSys / f = 0 ↔ fSys < f := Nat.div_eq_zero_iff_lt hf
  obtain ⟨hpos, hceil, hfloor⟩ := divisorsFor_coarse_bounds fSys f
  rw [← hratio]
  obtain hone | hmany := hpos.eq_or_lt
  · rw [divisorsFor_fine_of_coarse_one fSys f hone.symm]
    omega
  · have hfine := le_divisorsFor_fine fSys f hmany
    omega

end

/-- Settles O34: R102 (a) to (f), each from the ceiling S and the even part P. -/
theorem dividersHaveTheStatedProperties : Obligations.DividersHaveTheStatedProperties := by
  intro fSys f hf n d
  obtain ⟨hpos, hceil, -⟩ := divisorsFor_coarse_bounds fSys f
  exact ⟨divisorsFor_fine_even fSys f, divisorsFor_fine_le fSys f, hpos, hceil,
    fun m => divisorsFor_coarse_least fSys f,
    fun hone => ⟨divisorsFor_fine_of_coarse_one fSys f hone, hceil.trans_eq (congrArg (254 * ·) hone)⟩,
    fun hmany => ⟨le_divisorsFor_fine fSys f hmany, divisorsFor_fine fSys f⟩, divisorsFor_fine_eq_zero hf⟩

/-- The admission of 40_configure.md R104 as a range of F_SYS: P is 2 or more from f on, and S at most 256 below
254 · 256 · f. -/
theorem divisorsFor_admitted_iff {fSys f : Nat} (hf : 0 < f) :
    (divisorsFor fSys f).admitted = true ↔ f ≤ fSys ∧ fSys < 65024 * f := by
  have heven := divisorsFor_fine_even fSys f
  have hzero := divisorsFor_fine_eq_zero (fSys := fSys) hf
  have hratio : fSys / f < 65024 ↔ fSys < 65024 * f := Nat.div_lt_iff_lt_mul hf
  have hcoarse := divisorsFor_coarse_bounds fSys f
  simp only [Divisors.admitted, Bool.not_eq_true', Bool.or_eq_false_iff, decide_eq_false_iff_not]
  omega

/-- Settles O36: over the clamped frequencies the two bounds are tightest at 25 000 000 and at 2500. -/
theorem admittedClockRangeIsExact : Obligations.AdmittedClockRangeIsExact := by
  intro fSys
  constructor
  · rintro ⟨hlow, hhigh⟩ f hmin hmax
    exact (divisorsFor_admitted_iff (by omega)).mpr ⟨by omega, by omega⟩
  · intro hall
    obtain ⟨hlow, -⟩ := (divisorsFor_admitted_iff (by decide)).mp (hall 25000000 (by decide) (by decide))
    obtain ⟨-, hhigh⟩ := (divisorsFor_admitted_iff (by decide)).mp (hall 2500 (by decide) (by decide))
    exact ⟨hlow, by omega⟩

end Sys2Proof.Machine

/-! # CONFIGURE that is valid (40_configure.md R95, R104 to R113) -/

namespace Sys2Proof.Machine

section
variable {s : State} {k : UnitId} {sck tx rx cs : Byte} {mode : BitVec 8}

/-- The roles of the pins of a valid CONFIGURE of a unit. -/
theorem State.roles_of_valid (hvalid : s.valid k.field sck tx rx cs mode = true) :
    s.inRole k .sck sck = true ∧ s.inRole k .tx tx = true ∧ s.inRole k .rx rx = true ∧ s.inRole k .cs cs = true := by
  obtain ⟨k', hk', -, hroles⟩ := State.valid_eq.mp hvalid
  rw [unitOf_field] at hk'
  cases hk'
  exact hroles

/-- A pin in a role of a unit is in no role of the other unit (00_scope.md R11 (a)). -/
theorem notMem_other_of_inRole (ready : PlatformReady s) {r : Role} {p : Byte} (hp : s.inRole k r p = true)
    (r' : Role) : p ∉ (s.plat.pinmap.get k.other).get r' := by
  intro hother
  exact inRole_ne ready hp ((State.inRole_iff_mem ready).mpr hother) (.inl k.ne_other) rfl

end

/-- Settles O32: four different roles of one unit. -/
theorem validPinsAreDistinctAndOfTheUnit : Obligations.ValidPinsAreDistinctAndOfTheUnit := by
  intro s k sck tx rx cs mode ready hvalid
  obtain ⟨hsck, htx, hrx, hcs⟩ := State.roles_of_valid hvalid
  constructor
  · have hne {r r' : Role} {p q : Byte} (hp : s.inRole k r p = true) (hq : s.inRole k r' q = true) (hr : r ≠ r') :
        p ≠ q := inRole_ne ready hp hq (.inr hr)
    simp only [List.nodup_cons, List.mem_cons, List.not_mem_nil, or_false, not_or, not_false_eq_true,
      List.nodup_nil, and_true]
    exact ⟨⟨hne hsck htx (by decide), hne hsck hrx (by decide), hne hsck hcs (by decide)⟩,
      ⟨hne htx hrx (by decide), hne htx hcs (by decide)⟩, hne hrx hcs (by decide)⟩
  · intro p hp r
    simp only [List.mem_cons, List.not_mem_nil, or_false] at hp
    obtain rfl | rfl | rfl | rfl := hp
    · exact notMem_other_of_inRole ready hsck r
    · exact notMem_other_of_inRole ready htx r
    · exact notMem_other_of_inRole ready hrx r
    · exact notMem_other_of_inRole ready hcs r

/-- The chip-select pin of a valid CONFIGURE is none of its data-path pins (40_configure.md R95). -/
theorem csPin_ne_of_valid {s : State} {k : UnitId} {sck tx rx cs : Byte} {mode : BitVec 8} (ready : PlatformReady s)
    (hvalid : s.valid k.field sck tx rx cs mode = true) : cs ≠ sck ∧ cs ≠ tx ∧ cs ≠ rx := by
  obtain ⟨hsck, htx, hrx, hcs⟩ := State.roles_of_valid hvalid
  exact ⟨inRole_ne ready hcs hsck (.inr (by decide)), inRole_ne ready hcs htx (.inr (by decide)),
    inRole_ne ready hcs hrx (.inr (by decide))⟩

/-! ## What a commit makes of each pin -/

theorem CommitArgs.pinAfter_of_notMem {a : CommitArgs} {q : Byte} (h : q ∉ [a.sck, a.tx, a.rx, a.cs])
    (x : PinState) : a.pinAfter q x = x := by
  simp only [List.mem_cons, List.not_mem_nil, or_false, not_or] at h
  obtain ⟨hsck, htx, hrx, hcs⟩ := h
  simp only [CommitArgs.pinAfter, hsck, htx, hrx, hcs, and_false, if_false]

/-- The writes of a pin in their order as one write, the chip-select pin apart from the data path. -/
theorem CommitArgs.pinAfter_eq {a : CommitArgs} (hsck : a.cs ≠ a.sck) (htx : a.cs ≠ a.tx) (hrx : a.cs ≠ a.rx)
    (q : Byte) (x : PinState) : a.pinAfter q x =
      if q = a.sck ∨ q = a.tx then
        if 8000000 ≤ a.freq then { x with func := .spi, drive := .high, slew := .fast } else { x with func := .spi }
      else if q = a.rx then { x with func := .spi }
      else if q = a.cs then
        if a.hwcs then { x with func := .spi } else { x with func := .sio, oe := true, out := true }
      else x := by
  have hfast : Config.fFast ≤ a.freq ↔ 8000000 ≤ a.freq := Iff.rfl
  simp only [CommitArgs.pinAfter, hfast]
  by_cases hq : q = a.cs
  · subst hq
    simp [hsck, htx, hrx]
  · grind

/-! ## The three answers of a valid or invalid CONFIGURE -/

/-- The arguments of the commit that a CONFIGURE of a unit makes. -/
def configureArgs (fSys : Nat) (k : UnitId) (sck tx rx cs : Byte) (freqReq : BitVec 32) (mode : BitVec 8)
    (hwcs : Bool) : CommitArgs :=
  { unit := k, sck := sck, tx := tx, rx := rx, cs := cs, mode := modeField mode, hwcs := hwcs
    freq := clampFreq freqReq, div := divisorsFor fSys (clampFreq freqReq) }

section
variable {s : State} {u : BitVec 4} {k : UnitId} {sck tx rx cs : Byte} {freqReq : BitVec 32} {mode : BitVec 8}
  {hwcs : Bool}

theorem execConfigure_of_unadmitted (hvalid : s.valid u sck tx rx cs mode = true)
    (hunfit : configureAdmitted s.plat.fSys (clampFreq freqReq) = false) :
    execConfigure u sck tx rx cs freqReq mode hwcs s = .next s.refuseDivisor := by
  obtain ⟨hinvalid, -⟩ | ⟨-, -, hrefused⟩ | ⟨_, -, -, hfit, -⟩ :=
    execConfigure_cases u sck tx rx cs freqReq mode hwcs s
  · exact absurd hvalid (Bool.eq_false_iff.mp hinvalid)
  · exact hrefused
  · exact absurd hfit (Bool.eq_false_iff.mp hunfit)

theorem execConfigure_of_admitted (hvalid : s.valid k.field sck tx rx cs mode = true)
    (hfit : configureAdmitted s.plat.fSys (clampFreq freqReq) = true) :
    execConfigure k.field sck tx rx cs freqReq mode hwcs s =
      .next (finishConfigure true (commit (configureArgs s.plat.fSys k sck tx rx cs freqReq mode hwcs) s)) := by
  obtain ⟨hinvalid, -⟩ | ⟨-, hunfit, -⟩ | ⟨k', hk', -, -, hcommitted⟩ :=
    execConfigure_cases k.field sck tx rx cs freqReq mode hwcs s
  · exact absurd hvalid (Bool.eq_false_iff.mp hinvalid)
  · exact absurd hfit (Bool.eq_false_iff.mp hunfit)
  · rw [unitOf_field] at hk'
    cases hk'
    exact hcommitted

end

/-- Settles O38: each of the four conditions fails the admission, and an unadmitted CONFIGURE writes the refusal
mark. -/
theorem unadmittedConfigureSetsOnlyTheRefusalMark : Obligations.UnadmittedConfigureSetsOnlyTheRefusalMark := by
  intro s u sck tx rx cs freqReq mode hwcs f n c p hvalid hf hn hc hp hout
  refine execConfigure_of_unadmitted hvalid (Bool.eq_false_iff.mpr fun hadmitted => ?_)
  obtain ⟨hlow, hhigh, hfit⟩ := configureAdmitted_eq_true.mp hadmitted
  have hclamp : clampFreq freqReq = f := hf.symm
  have hcoarse : (divisorsFor s.plat.fSys f).coarse = c := by rw [hc, hn, divisorsFor_coarse]
  have hfine : (divisorsFor s.plat.fSys f).fine = p := by rw [hp, hn, divisorsFor_fine, hcoarse]
  simp only [Divisors.admitted, hclamp, hcoarse, hfine, Bool.not_eq_true', Bool.or_eq_false_iff,
    decide_eq_false_iff_not] at hfit
  omega

/-! ## What a commit leaves in the state -/

theorem modeField_eq (mode : BitVec 8) : modeField mode = mode.setWidth 2 :=
  (BitVec.setWidth_eq_extractLsb' (by decide)).symm

theorem cpolOf_modeField (mode : BitVec 8) : cpolOf (modeField mode) = mode.getLsbD 1 := by
  simp [cpolOf, modeField]

theorem cphaOf_modeField (mode : BitVec 8) : cphaOf (modeField mode) = mode.getLsbD 0 := by
  simp [cphaOf, modeField]

/-- Settles O39: in the admitted range the dividers fit, so the CONFIGURE commits; then one law of the commit for each
field. -/
theorem validConfigureCommits : Obligations.ValidConfigureCommits := by
  intro s k sck tx rx cs freqReq mode hwcs f n c p ready hvalid hf hn hc hp hlow hhigh
  have hclamp : clampFreq freqReq = f := hf.symm
  obtain ⟨hmin, hmax⟩ : 2500 ≤ f ∧ f ≤ 25000000 := hclamp ▸ clampFreq_range freqReq
  have hadmitted : (divisorsFor s.plat.fSys f).admitted = true :=
    (admittedClockRangeIsExact s.plat.fSys).mp ⟨hlow, hhigh⟩ f hmin hmax
  have hcoarse : (divisorsFor s.plat.fSys f).coarse = c := by rw [hc, hn, divisorsFor_coarse]
  have hfine : (divisorsFor s.plat.fSys f).fine = p := by rw [hp, hn, divisorsFor_fine, hcoarse]
  have hfit : 2 ≤ p ∧ c - 1 ≤ 255 := by
    simp only [Divisors.admitted, hcoarse, hfine, Bool.not_eq_true', Bool.or_eq_false_iff,
      decide_eq_false_iff_not] at hadmitted
    omega
  refine ⟨hfit.1, hfit.2, ?_⟩
  have hexec := execConfigure_of_admitted (freqReq := freqReq) (hwcs := hwcs) hvalid
    (configureAdmitted_eq_true.mpr ⟨hlow, hhigh, hclamp ▸ hadmitted⟩)
  rw [finishConfigure_eq] at hexec
  obtain ⟨csPin, hpin⟩ := State.exists_csPin_of_valid hvalid
  obtain ⟨hsck, htx, hrx⟩ := csPin_ne_of_valid ready hvalid
  refine ⟨_, csPin, hpin, hexec, ?cfg, ?reg, ?resp, ?cp, ?bus, commit_nPins _ s, ?pins, commit_plat _ s, commit_cmd _ s,
    commit_per _ s, commit_phase _ s, commit_fault _ s, commit_refused _ s, commit_turns _ s, commit_draws _ s⟩
  case cfg =>
    refine (commit_cfg _ s).trans ?_
    simp only [configureArgs, CommitArgs.binding, hclamp, modeField_eq]
  case reg =>
    refine (commit_reg _ s).trans ?_
    simp only [configureArgs, hclamp, cpolOf_modeField, cphaOf_modeField, Divisors.scaleRate, Divisors.prescale,
      hcoarse, hfine]
    rfl
  case resp => exact congrArg (· ++ _) (commit_resp _ s)
  case cp => exact congrArg (· + 3) (commit_cp _ s)
  case bus =>
    refine (commit_bus (configureArgs s.plat.fSys k sck tx rx cs freqReq mode hwcs) hpin).trans ?_
    simp only [configureArgs, hclamp]
    rfl
  case pins =>
    intro q x hx
    refine (commit_pin? _ s q).trans ?_
    rw [hx, Option.map_some, CommitArgs.pinAfter_eq hsck htx hrx]
    simp only [configureArgs, hclamp]

/-- Settles O40: rejection and refusal touch none of it, and a commit writes its own unit and the four pins, which are
not the other unit's. -/
theorem configureTouchesOnlyItsUnitAndPins : Obligations.ConfigureTouchesOnlyItsUnitAndPins := by
  intro s t k sck tx rx cs freqReq mode hwcs ready hexec
  obtain ⟨-, he⟩ | ⟨-, -, he⟩ | ⟨k', hk', hvalid, -, he⟩ :=
    execConfigure_cases k.field sck tx rx cs freqReq mode hwcs s
  · cases he.symm.trans hexec
    exact ⟨rfl, rfl, rfl, fun _ _ _ => rfl, fun _ _ => rfl⟩
  · cases he.symm.trans hexec
    exact ⟨rfl, rfl, rfl, fun _ _ _ => rfl, fun _ _ => rfl⟩
  · rw [unitOf_field] at hk'
    cases hk'
    rw [finishConfigure_eq] at he
    cases he.symm.trans hexec
    have hpin (q : Byte) (hq : q ∉ [sck, tx, rx, cs]) :
        (commit (configureArgs s.plat.fSys k sck tx rx cs freqReq mode hwcs) s).pin? q = s.pin? q := by
      rw [commit_pin?, funext (CommitArgs.pinAfter_of_notMem hq), Option.map_id']
    obtain ⟨-, hother⟩ := validPinsAreDistinctAndOfTheUnit s k sck tx rx cs mode ready hvalid
    refine ⟨?cfg, ?reg, commit_per _ s, fun r q hq => hpin q fun hmem => hother q hmem r hq, hpin⟩
    case cfg => exact (congrArg (Units.get · k.other) (commit_cfg _ s)).trans (Units.get_set_other _ k _)
    case reg => exact (congrArg (Units.get · k.other) (commit_reg _ s)).trans (Units.get_set_other _ k _)

end Sys2Proof.Machine

/-! # The invariant of the block (10_state.md R27, R37, 41_transaction.md R138, 70_reset_and_hazards.md R187) -/

namespace Sys2Proof.Machine

/-! ## The phase and the queues -/

section
variable {s : State} {k : UnitId} {d : Byte}

theorem phaseInv_of_ready (ready : s.phase = .ready) : PhaseInv s ↔ ∀ k, (s.per.get k).empty := by
  simp only [PhaseInv, ready]

theorem phaseInv_of_poll (phase : s.phase = .poll k d) :
    PhaseInv s ↔ (s.cfg.get k).configured = true ∧ (s.per.get k).carrying d ∧ (s.per.get k.other).empty ∧
      s.cp < s.cmd.length := by
  simp only [PhaseInv, phase]

theorem phaseInv_of_collect (phase : s.phase = .collect k) :
    PhaseInv s ↔ (s.cfg.get k).configured = true ∧ (s.per.get k).quiet ∧ (∃ r, (s.per.get k).rxq = [r]) ∧
      (s.per.get k.other).empty ∧ s.cp < s.cmd.length := by
  simp only [PhaseInv, phase]

theorem PhaseInv.ofReady (ready : s.phase = .ready) (empty : ∀ k, (s.per.get k).empty) : PhaseInv s :=
  (phaseInv_of_ready ready).mpr empty

theorem PhaseInv.ofPoll (phase : s.phase = .poll k d) (configured : (s.cfg.get k).configured = true)
    (carrying : (s.per.get k).carrying d) (other : (s.per.get k.other).empty) (word : s.cp < s.cmd.length) :
    PhaseInv s :=
  (phaseInv_of_poll phase).mpr ⟨configured, carrying, other, word⟩

theorem PhaseInv.ofCollect (phase : s.phase = .collect k) (configured : (s.cfg.get k).configured = true)
    (quiet : (s.per.get k).quiet) (received : ∃ r, (s.per.get k).rxq = [r]) (other : (s.per.get k.other).empty)
    (word : s.cp < s.cmd.length) : PhaseInv s :=
  (phaseInv_of_collect phase).mpr ⟨configured, quiet, received, other, word⟩

/-- A unit that has something queued or in flight is the one that is polled. -/
theorem exists_poll_of_not_quiet (h : PhaseInv s) (hbusy : ¬(s.per.get k).quiet) : ∃ d, s.phase = .poll k d := by
  cases phase : s.phase with
  | ready => exact absurd ((phaseInv_of_ready phase).mp h k).1 hbusy
  | poll u d =>
    obtain ⟨-, -, hother, -⟩ := (phaseInv_of_poll phase).mp h
    obtain rfl | rfl := u.eq_or_eq_other k
    · exact ⟨d, rfl⟩
    · exact absurd hother.1 hbusy
  | collect u =>
    obtain ⟨-, hquiet, -, hother, -⟩ := (phaseInv_of_collect phase).mp h
    obtain rfl | rfl := u.eq_or_eq_other k
    · exact absurd hquiet hbusy
    · exact absurd hother.1 hbusy

/-- The queues of a carried byte that waits to be sent. -/
theorem UnitPer.carrying_of_queued {p : UnitPer} {d d' : Byte} {rest : List Byte} (h : p.carrying d)
    (queued : p.txq = d' :: rest) : d' = d ∧ rest = [] ∧ p.shift = none ∧ p.rxq = [] := by
  obtain ⟨htxq, hshift, hrxq⟩ | ⟨htxq, -⟩ | ⟨htxq, -⟩ := h
  · obtain ⟨hd, hrest⟩ := List.cons_eq_cons.mp (queued.symm.trans htxq)
    exact ⟨hd, hrest, hshift, hrxq⟩
  · cases queued.symm.trans htxq
  · cases queued.symm.trans htxq

/-- The queues of a carried byte in flight. -/
theorem UnitPer.carrying_of_inFlight {p : UnitPer} {d d' : Byte} (h : p.carrying d) (inFlight : p.shift = some d') :
    d' = d ∧ p.txq = [] ∧ p.rxq = [] := by
  obtain ⟨-, hshift, -⟩ | ⟨htxq, hshift, hrxq⟩ | ⟨-, hshift, -⟩ := h
  · cases inFlight.symm.trans hshift
  · exact ⟨Option.some_inj.mp (inFlight.symm.trans hshift), htxq, hrxq⟩
  · cases inFlight.symm.trans hshift

/-- A carried byte that is neither queued nor in flight has been exchanged. -/
theorem UnitPer.carrying_of_quiet {p : UnitPer} {d : Byte} (h : p.carrying d) (hquiet : p.quiet) :
    ∃ r, p.rxq = [r] := by
  obtain ⟨htxq, hshift⟩ := hquiet
  obtain ⟨hqueued, -⟩ | ⟨-, hinFlight, -⟩ | ⟨-, -, hreceived⟩ := h
  · cases htxq.symm.trans hqueued
  · cases hshift.symm.trans hinFlight
  · exact hreceived

/-- A unit is idle exactly when it is quiet, the BUSY rule of 10_state.md R37 negated. -/
theorem idle_iff_quiet (h : BusyInv s k) : (s.reg.get k).busy = false ↔ (s.per.get k).quiet := by
  rw [← Bool.not_eq_true, h.not, not_or, not_not, not_not, UnitPer.quiet]

theorem agentEnabled_peripheral_of_quiet (h : (s.per.get k).quiet) : agentEnabled s (.peripheral k) = false :=
  agentEnabled_peripheral_of_idle h.1 h.2

end

/-- The phase part of the invariant is kept: the byte of a TRANSFER goes from TXQ to SHIFT to RXQ to the answer. -/
theorem Moves.phaseInv {env : Env} {s t : State} (h : Inv s) (hmove : Moves env s t) : PhaseInv t := by
  have hphase := h.phase
  cases hmove with
  | illegal ready | rejected ready | refused ready | noEffect ready | toggled ready | zero ready =>
    exact .ofReady ready ((phaseInv_of_ready ready).mp hphase)
  | committed ready =>
    refine .ofReady ((commit_phase _ s).trans ready) fun k => ?_
    exact (congrArg (Units.get · k) (commit_per _ s)).symm ▸ (phaseInv_of_ready ready).mp hphase k
  | @issued _ _ k d ready _ _ words _ configured =>
    have hempty := (phaseInv_of_ready ready).mp hphase
    obtain ⟨⟨htxq, hshift⟩, hrxq⟩ := hempty k
    rw [issue_eq]
    refine .ofPoll (k := k) (d := d) rfl configured ?_ ?_ (cp_lt_of_words words)
    · rw [Units.get_set_self]
      exact .inl ⟨congrArg (· ++ [d]) htxq, hshift, hrxq⟩
    · rw [Units.get_set_other]
      exact hempty k.other
  | @polled k d _ _ phase =>
    obtain ⟨configured, hcarrying, hother, hword⟩ := (phaseInv_of_poll phase).mp hphase
    cases hbusy : (s.reg.get k).busy with
    | true => rw [pollStep_of_busy hbusy]; exact hphase
    | false =>
      have hquiet := (idle_iff_quiet (h.busy k)).mp hbusy
      rw [pollStep_of_idle hbusy]
      exact .ofCollect (k := k) rfl configured hquiet (UnitPer.carrying_of_quiet hcarrying hquiet) hother hword
  | @collected k _ _ phase =>
    obtain ⟨-, hquiet, ⟨r, hrxq⟩, hother, -⟩ := (phaseInv_of_collect phase).mp hphase
    rw [collectStep_of_waiting hrxq]
    refine .ofReady rfl fun u => ?_
    obtain rfl | rfl := k.eq_or_eq_other u
    · rw [Units.get_set_self]
      exact ⟨hquiet, rfl⟩
    · rw [Units.get_set_other]
      exact hother
  | @frameStarted k d rest queued =>
    obtain ⟨d, phase⟩ := exists_poll_of_not_quiet hphase fun hquiet : (s.per.get k).quiet =>
      List.cons_ne_nil _ _ (queued.symm.trans hquiet.1)
    obtain ⟨configured, hcarrying, hother, hword⟩ := (phaseInv_of_poll phase).mp hphase
    obtain ⟨rfl, rfl, -, hrxq⟩ := UnitPer.carrying_of_queued hcarrying queued
    rw [frameStart_of_queued queued]
    refine .ofPoll phase configured ?_ ?_ hword
    · rw [Units.get_set_self]
      exact .inr (.inl ⟨rfl, rfl, hrxq⟩)
    · rw [Units.get_set_other]
      exact hother
  | @frameEnded k d inFlight =>
    obtain ⟨d, phase⟩ := exists_poll_of_not_quiet hphase fun hquiet : (s.per.get k).quiet =>
      Option.some_ne_none _ (inFlight.symm.trans hquiet.2)
    obtain ⟨configured, hcarrying, hother, hword⟩ := (phaseInv_of_poll phase).mp hphase
    obtain ⟨rfl, htxq, hrxq⟩ := UnitPer.carrying_of_inFlight hcarrying inFlight
    rw [frameEnd_of_inFlight inFlight]
    refine .ofPoll phase configured ?_ ?_ hword
    · rw [Units.get_set_self]
      exact .inr (.inr ⟨htxq, rfl, _, congrArg (· ++ _) hrxq⟩)
    · rw [Units.get_set_other]
      exact hother

/-! ## BUSY -/

/-- The BUSY rule of one unit's registers and queues. -/
def busyAgrees (r : UnitRegs) (p : UnitPer) : Prop := r.busy = true ↔ p.txq ≠ [] ∨ p.shift ≠ none

theorem busyInv_iff {s : State} {k : UnitId} : BusyInv s k ↔ busyAgrees (s.reg.get k) (s.per.get k) := Iff.rfl

theorem busyAgrees_get_set {x : Units UnitRegs} {y : Units UnitPer} {u : UnitId} {r : UnitRegs} {p : UnitPer}
    (hother : ∀ k, busyAgrees (x.get k) (y.get k)) (hself : busyAgrees r p) (k : UnitId) :
    busyAgrees ((x.set u r).get k) ((y.set u p).get k) := by
  obtain rfl | rfl := u.eq_or_eq_other k
  · rw [Units.get_set_self, Units.get_set_self]; exact hself
  · rw [Units.get_set_other, Units.get_set_other]; exact hother _

theorem busyAgrees_get_set_reg {x : Units UnitRegs} {y : Units UnitPer} {u : UnitId} {r : UnitRegs}
    (hother : ∀ k, busyAgrees (x.get k) (y.get k)) (hself : busyAgrees r (y.get u)) (k : UnitId) :
    busyAgrees ((x.set u r).get k) (y.get k) := by
  have hset := busyAgrees_get_set (u := u) hother hself k
  rwa [Units.set_get] at hset

theorem busyAgrees_get_set_per {x : Units UnitRegs} {y : Units UnitPer} {u : UnitId} {p : UnitPer}
    (hother : ∀ k, busyAgrees (x.get k) (y.get k)) (hself : busyAgrees (x.get u) p) (k : UnitId) :
    busyAgrees (x.get k) ((y.set u p).get k) := by
  have hset := busyAgrees_get_set (u := u) hother hself k
  rwa [Units.set_get] at hset

/-- BUSY rises with the queued byte and falls with the end of its frame (41_transaction.md R134, R137). -/
theorem Moves.busyInv {env : Env} {s t : State} (h : Inv s) (hmove : Moves env s t) (k : UnitId) : BusyInv t k := by
  have hbusy : ∀ u, busyAgrees (s.reg.get u) (s.per.get u) := h.busy
  rw [busyInv_iff]
  cases hmove with
  | illegal | rejected | refused | noEffect | toggled | zero => exact hbusy k
  | committed =>
    simp only [finishConfigure, State.advance_reg, State.respond_reg, State.advance_per, State.respond_per,
      commit_per, commit_reg]
    refine busyAgrees_get_set_reg hbusy ?_ k
    exact hbusy _
  | issued =>
    rw [issue_eq]
    refine busyAgrees_get_set hbusy (iff_of_true rfl (.inl ?_)) k
    exact List.append_ne_nil_of_right_ne_nil _ (List.cons_ne_nil _ _)
  | polled =>
    obtain ⟨p, hp⟩ := pollStep_eq _ s
    rw [hp]
    exact hbusy k
  | @collected u _ _ phase =>
    obtain ⟨-, -, ⟨r, hrxq⟩, -⟩ := (phaseInv_of_collect phase).mp h.phase
    rw [collectStep_of_waiting hrxq]
    refine busyAgrees_get_set_per hbusy ?_ k
    exact hbusy u
  | @frameStarted u d rest queued =>
    have htxq : (s.per.get u).txq ≠ [] := queued ▸ List.cons_ne_nil _ _
    rw [frameStart_of_queued queued]
    exact busyAgrees_get_set_per hbusy (iff_of_true ((hbusy u).mpr (.inl htxq)) (.inr (Option.some_ne_none _))) k
  | @frameEnded u d inFlight =>
    obtain ⟨d, phase⟩ := exists_poll_of_not_quiet h.phase fun hquiet : (s.per.get u).quiet =>
      Option.some_ne_none _ (inFlight.symm.trans hquiet.2)
    obtain ⟨-, hcarrying, -, -⟩ := (phaseInv_of_poll phase).mp h.phase
    obtain ⟨-, htxq, -⟩ := UnitPer.carrying_of_inFlight hcarrying inFlight
    rw [frameEnd_of_inFlight inFlight]
    exact busyAgrees_get_set hbusy (iff_of_false Bool.false_ne_true (by simp [htxq])) k

/-! ## The units -/

/-- The binding that a valid, admitted CONFIGURE commits holds of the state it leaves. -/
theorem bindingInv_commit {s : State} {k : UnitId} {sck tx rx cs : Byte} {freqReq : BitVec 32} {mode : BitVec 8}
    {hwcs : Bool} (ready : PlatformReady s) (hvalid : s.valid k.field sck tx rx cs mode = true)
    (hfit : configureAdmitted s.plat.fSys (clampFreq freqReq) = true) :
    let a := configureArgs s.plat.fSys k sck tx rx cs freqReq mode hwcs
    BindingInv (commit a s) k a.binding := by
  intro a
  obtain ⟨hsck, htx, hrx, hcs⟩ := State.roles_of_valid hvalid
  obtain ⟨hnsck, hntx, hnrx⟩ := csPin_ne_of_valid ready hvalid
  obtain ⟨hmin, hmax⟩ : 2500 ≤ clampFreq freqReq ∧ clampFreq freqReq ≤ 25000000 := clampFreq_range freqReq
  have hfreq : a.binding.freq.toNat = clampFreq freqReq :=
    (BitVec.toNat_ofNat _ _).trans (Nat.mod_eq_of_lt (hmax.trans_lt (by decide)))
  have hrole (r : Role) (p : Byte) : (commit a s).inRole k r p = s.inRole k r p := by
    simp only [State.inRole, commit_plat, commit_nPins]
  have hreg := congrArg (Units.get · k) (commit_reg a s)
  simp only [Units.get_set_self, show a.unit = k from rfl] at hreg
  obtain ⟨x, hx⟩ := State.exists_csPin_of_valid hvalid
  exact
    { freq_range := hfreq.symm ▸ ⟨hmin, hmax⟩
      sck_role := (hrole _ _).trans hsck
      tx_role := (hrole _ _).trans htx
      rx_role := (hrole _ _).trans hrx
      cs_role := (hrole _ _).trans hcs
      admitted := by rw [commit_plat, hfreq]; exact hfit
      ctrl_eq := by rw [hreg, commit_plat, hfreq]; rfl
      prescale_eq := by rw [hreg, commit_plat, hfreq]; rfl
      enabled := by rw [hreg]; rfl
      cs_pin := by
        refine ⟨_, (commit_pin? a s cs).trans (congrArg (Option.map _) hx), ?_⟩
        rw [CommitArgs.pinAfter_eq hnsck hntx hnrx]
        cases hwcs <;> simp [a, configureArgs, CommitArgs.binding, hnsck, hntx, hnrx] }

/-- A commit leaves the other unit's invariant, whose chip-select pin it does not name (40_configure.md R113). -/
theorem unitInv_commit_other {s : State} {k : UnitId} {sck tx rx cs : Byte} {freqReq : BitVec 32} {mode : BitVec 8}
    {hwcs : Bool} (ready : PlatformReady s) (hvalid : s.valid k.field sck tx rx cs mode = true)
    (h : UnitInv s k.other) :
    UnitInv (commit (configureArgs s.plat.fSys k sck tx rx cs freqReq mode hwcs) s) k.other := by
  obtain ⟨hsck, htx, hrx, hcs⟩ := State.roles_of_valid hvalid
  have hreg := congrArg (Units.get · k.other)
    (commit_reg (configureArgs s.plat.fSys k sck tx rx cs freqReq mode hwcs) s)
  replace hreg := hreg.trans (Units.get_set_other _ k _)
  refine UnitInv.congr (commit_plat _ s) (commit_nPins _ s) ?cfg (congrArg UnitRegs.ctrl hreg)
    (congrArg UnitRegs.ctrl1 hreg) (congrArg UnitRegs.prescale hreg) ?pin h
  case cfg => exact (congrArg (Units.get · k.other) (commit_cfg _ s)).trans (Units.get_set_other _ k _)
  case pin =>
    intro b hb x hx
    obtain ⟨hconf, rfl⟩ := State.binding?_eq_some.mp hb
    have hother := (UnitInv.bound h hconf).cs_role
    have hnotNamed : (s.cfg.get k.other).binding.pinCs ∉ [sck, tx, rx, cs] := by
      simp only [List.mem_cons, List.not_mem_nil, or_false, not_or]
      exact ⟨inRole_ne ready hother hsck (.inl k.other_ne), inRole_ne ready hother htx (.inl k.other_ne),
        inRole_ne ready hother hrx (.inl k.other_ne), inRole_ne ready hother hcs (.inl k.other_ne)⟩
    refine ⟨x, ?_, rfl, rfl⟩
    rw [commit_pin?, hx, Option.map_some, CommitArgs.pinAfter_of_notMem hnotNamed]

/-- The part of the state that the units' invariants read, BUSY apart. -/
structure State.SameUnits (s t : State) : Prop where
  plat : t.plat = s.plat
  pins : t.pins = s.pins
  cfg : t.cfg = s.cfg
  reg : t.reg = s.reg ∨ ∃ u b, t.reg = s.reg.set u { s.reg.get u with busy := b }

theorem UnitInv.of_sameUnits {s t : State} {k : UnitId} (h : ∀ k, UnitInv s k) (hsame : s.SameUnits t) :
    UnitInv t k := by
  obtain ⟨hplat, hpins, hcfg, hreg | ⟨u, b, hreg⟩⟩ := hsame
  · exact .of_same hplat hpins hcfg hreg h k
  · obtain ⟨hctrl, hctrl1, hpre⟩ := setBusy_keeps_configured (x := s.reg) u k b
    rw [← hreg] at hctrl hctrl1 hpre
    exact UnitInv.congr hplat (by rw [State.nPins, hpins, State.nPins]) (by rw [hcfg]) hctrl hctrl1 hpre
      (fun _ _ x hx => ⟨x, by rw [State.pin?, hpins]; exact hx, rfl, rfl⟩) (h k)

theorem Moves.unitInv {env : Env} {s t : State} (h : Inv s) (hmove : Moves env s t) (k : UnitId) : UnitInv t k := by
  cases hmove with
  | illegal | rejected | refused | noEffect | zero => exact .of_sameUnits h.units ⟨rfl, rfl, rfl, .inl rfl⟩
  | @committed w0 rest u sck tx rx cs freqReq mode hwcs _ _ _ _ _ valid fit =>
    refine .of_sameUnits (s := commit (configureArgs s.plat.fSys u sck tx rx cs freqReq mode hwcs) s) (fun k => ?_)
      ⟨rfl, rfl, rfl, .inl rfl⟩
    obtain rfl | rfl := u.eq_or_eq_other k
    · have hbound : (commit (configureArgs s.plat.fSys k sck tx rx cs freqReq mode hwcs) s).binding? k =
          some (configureArgs s.plat.fSys k sck tx rx cs freqReq mode hwcs).binding := by
        rw [State.binding?, commit_cfg]
        simp [configureArgs]
      rw [UnitInv, hbound]
      exact bindingInv_commit h.platform valid fit
    · exact unitInv_commit_other h.platform valid (h.units _)
  | @toggled _ _ _ u =>
    refine UnitInv.congr (s := s) rfl (s.nPins_modifyPin _ _) rfl rfl rfl rfl (fun b _ x hx => ?_) (h.units k)
    refine ⟨_, (s.pin?_driveCs u _ _ _).trans (congrArg (Option.map _) hx), ?_⟩
    dsimp only
    split <;> exact ⟨rfl, rfl⟩
  | issued => exact .of_sameUnits h.units ⟨rfl, rfl, rfl, .inr ⟨_, _, rfl⟩⟩
  | polled =>
    obtain ⟨p, hp⟩ := pollStep_eq _ s
    rw [hp]
    exact .of_sameUnits h.units ⟨rfl, rfl, rfl, .inl rfl⟩
  | collected =>
    obtain ⟨p, r, n, hp⟩ := collectStep_eq env _ s
    rw [hp]
    exact .of_sameUnits h.units ⟨rfl, rfl, rfl, .inl rfl⟩
  | frameStarted queued =>
    rw [frameStart_of_queued queued]
    exact .of_sameUnits h.units ⟨rfl, rfl, rfl, .inl rfl⟩
  | frameEnded inFlight =>
    rw [frameEnd_of_inFlight inFlight]
    exact .of_sameUnits h.units ⟨rfl, rfl, rfl, .inr ⟨_, _, rfl⟩⟩

/-! ## Marks, parameters and stream -/

theorem markInv_of_unmarked {s : State} (noFault : s.fault = none) (noRefusal : s.refused = none) : MarkInv s := by
  simp [MarkInv, noFault, noRefusal]

theorem Moves.markInv {env : Env} {s t : State} (h : MarkInv s) (hmove : Moves env s t) : MarkInv t := by
  cases hmove with
  | illegal ready _ noRefusal =>
    exact ⟨fun _ => ⟨ready, noRefusal⟩, fun _ => ready⟩
  | refused ready noFault =>
    exact ⟨fun hfault => by simp [noFault] at hfault, fun _ => ready⟩
  | rejected _ noFault noRefusal | noEffect _ noFault noRefusal | toggled _ noFault noRefusal
  | zero _ noFault noRefusal | issued _ noFault noRefusal => exact markInv_of_unmarked noFault noRefusal
  | committed _ noFault noRefusal =>
    exact markInv_of_unmarked ((commit_fault _ s).trans noFault) ((commit_refused _ s).trans noRefusal)
  | polled noFault noRefusal =>
    obtain ⟨p, hp⟩ := pollStep_eq _ s
    rw [hp]
    exact markInv_of_unmarked noFault noRefusal
  | collected noFault noRefusal =>
    obtain ⟨p, r, n, hp⟩ := collectStep_eq env _ s
    rw [hp]
    exact markInv_of_unmarked noFault noRefusal
  | frameStarted queued => rw [frameStart_of_queued queued]; exact h
  | frameEnded inFlight => rw [frameEnd_of_inFlight inFlight]; exact h

theorem Moves.platformReady {env : Env} {s t : State} (h : PlatformReady s) (hmove : Moves env s t) :
    PlatformReady t := by
  obtain ⟨-, hplat, hpins⟩ := hmove.sameInputs
  rw [PlatformReady, hplat, hpins]
  exact h

theorem Moves.cp_le {env : Env} {s t : State} (h : Inv s) (hmove : Moves env s t) : t.cp ≤ t.cmd.length := by
  rw [hmove.sameInputs.cmd]
  obtain hsame | ⟨-, w0, rest, i, words, dec, hcp⟩ | ⟨k, phase, hcp⟩ := hmove.cp
  · exact hsame ▸ h.stream
  · exact hcp ▸ cp_add_length_le words dec
  · obtain ⟨-, -, -, -, hword⟩ := (phaseInv_of_collect phase).mp h.phase
    exact hcp ▸ hword

/-- Every move of an agent keeps the invariant. -/
theorem Moves.inv {env : Env} {s t : State} (h : Inv s) (hmove : Moves env s t) : Inv t where
  platform := hmove.platformReady h.platform
  units := hmove.unitInv h
  busy := hmove.busyInv h
  phase := hmove.phaseInv h
  marks := hmove.markInv h.marks
  stream := hmove.cp_le h

/-- The invariant does not read the model's count of choices. -/
theorem Inv.withTurns {s : State} (h : Inv s) (n : Nat) : Inv { s with turns := n } where
  platform := h.platform
  units := fun _ => .of_sameUnits h.units ⟨rfl, rfl, rfl, .inl rfl⟩
  busy := h.busy
  phase := h.phase
  marks := h.marks
  stream := h.stream

/-- Settles O28: a step is one agent's move, and every move keeps each part of the invariant. -/
theorem everyStepKeepsTheBlockInvariant : Obligations.EveryStepKeepsTheBlockInvariant := by
  intro env s t h hstep
  obtain ⟨n, hmove⟩ := exists_moves_of_stepUnder hstep
  exact hmove.inv (h.withTurns n)

/-! ## The state after reset -/

theorem binding?_loadStream_reset (ws : List Word) (k : UnitId) : (State.reset.loadStream ws).binding? k = none := by
  cases k <;> rfl

/-- Settles O27: both units are Unconfigured and empty, and nothing is set. -/
theorem resetMeetsTheBlockInvariant : Obligations.ResetMeetsTheBlockInvariant := by
  intro ws
  exact
    { platform := defaultPlatform_wf
      units := fun k => by rw [UnitInv, binding?_loadStream_reset]; cases k <;> rfl
      busy := fun k => by cases k <;> exact iff_of_false Bool.false_ne_true (by rintro (h | h) <;> exact h rfl)
      phase := .ofReady rfl fun k => by cases k <;> exact ⟨⟨rfl, rfl⟩, rfl⟩
      marks := markInv_of_unmarked rfl rfl
      stream := Nat.zero_le _ }

/-- Settles O25: the reset state is the table's literal, the same for both units and for every pin. -/
theorem resetStateIsTheResetTable : Obligations.ResetStateIsTheResetTable := by
  refine ⟨fun k => ?binding, rfl, rfl, fun k => ?registers, fun k => ?queues, rfl, fun x hx => ?pins, rfl, rfl, rfl,
    rfl, rfl, rfl⟩
  case binding => cases k <;> exact ⟨rfl, rfl⟩
  case registers => cases k <;> exact ⟨rfl, rfl, rfl, rfl⟩
  case queues => cases k <;> exact ⟨rfl, rfl, rfl⟩
  case pins =>
    rw [List.eq_of_mem_replicate hx]
    exact ⟨rfl, rfl, rfl, rfl, rfl⟩

/-- Settles O26: after reset no peripheral moves, so the machine's step is the controller's on CMD[0]. -/
theorem afterResetTheFirstWordIsDecoded : Obligations.AfterResetTheFirstWordIsDecoded := by
  intro w0 rest
  have words : (State.reset.loadStream (w0 :: rest)).cmd.drop 0 = w0 :: rest := rfl
  have idle (k : UnitId) : agentEnabled (State.reset.loadStream (w0 :: rest)) (.peripheral k) = false := by
    cases k <;> rfl
  rw [step, stepUnder_of_ready Config.env rfl rfl rfl idle words]
  cases dec : decode w0 rest with
  | error cause => rw [readyStep_of_error words dec]; rfl
  | ok i => rw [readyStep_of_ok words dec]

end Sys2Proof.Machine

/-! # The stops that are reached (60_exceptions.md section 1, 70_reset_and_hazards.md R186) -/

namespace Sys2Proof.Machine

/-- A bound chip-select pin exists, so BEGIN and END have a next state. -/
theorem exists_toggleChipSelect_next {s : State} (h : ∀ k, UnitInv s k) (k : UnitId) (level : Bool) :
    ∃ t, toggleChipSelect k level s = .next t := by
  cases hb : s.binding? k with
  | none => exact ⟨_, toggleChipSelect_of_unconfigured (State.binding?_eq_none.mp hb)⟩
  | some b =>
    obtain ⟨hconf, rfl⟩ := State.binding?_eq_some.mp hb
    cases hw : (s.cfg.get k).binding.hwcs with
    | true => exact ⟨_, toggleChipSelect_of_automated hb hw⟩
    | false =>
      have hpin := (State.inRole_eq.mp (UnitInv.bound (h k) hconf).cs_role).2
      exact ⟨_, toggleChipSelect_of_software hb hw hpin⟩

/-- Under the units' invariants every command has a next state. -/
theorem exists_exec_next {s : State} (h : ∀ k, UnitInv s k) (i : Instr) : ∃ t, exec i s = .next t := by
  cases i with
  | configure u sck tx rx cs freqReq mode hwcs =>
    obtain ⟨-, he⟩ | ⟨-, -, he⟩ | ⟨_, -, -, -, he⟩ := execConfigure_cases u sck tx rx cs freqReq mode hwcs s
    · exact ⟨_, he⟩
    · exact ⟨_, he⟩
    · exact ⟨_, he⟩
  | beginTxn u =>
    simp only [exec, execBegin]
    split
    · exact exists_toggleChipSelect_next h _ _
    · exact ⟨_, rfl⟩
  | transfer u d =>
    simp only [exec, execTransfer]
    split
    · split <;> exact ⟨_, rfl⟩
    · exact ⟨_, rfl⟩
  | endTxn u =>
    simp only [exec, execEnd]
    split
    · exact exists_toggleChipSelect_next h _ _
    · exact ⟨_, rfl⟩

theorem exists_readyStep_next {s : State} (h : ∀ k, UnitInv s k) (hword : s.cp < s.cmd.length) :
    ∃ t, readyStep s = .next t := by
  have words := List.drop_eq_getElem_cons hword
  cases dec : decode s.cmd[s.cp] (s.cmd.drop (s.cp + 1)) with
  | error cause => exact ⟨_, readyStep_of_error words dec⟩
  | ok i =>
    rw [readyStep_of_ok words dec]
    exact exists_exec_next h i

theorem cp_lt_of_controllerEnabled {s : State} (h : controllerEnabled s = true) (ready : s.phase = .ready) :
    s.cp < s.cmd.length := by
  by_contra hend
  rw [controllerEnabled_of_no_word ready (by omega)] at h
  cases h

/-- An enabled agent of a state that meets the units' invariants has a next state. -/
theorem exists_agentStep_next {env : Env} {s : State} (h : ∀ k, UnitInv s k) {a : Agent}
    (ha : agentEnabled s a = true) : ∃ t, agentStep env s a = .next t := by
  cases a with
  | peripheral k => exact ⟨_, rfl⟩
  | controller =>
    cases phase : s.phase with
    | ready =>
      simp only [agentStep, controllerStep, phase]
      exact exists_readyStep_next h (cp_lt_of_controllerEnabled ha phase)
    | poll k d => exact ⟨_, controllerStep_of_poll phase⟩
    | collect k => exact ⟨_, controllerStep_of_collect phase⟩

/-- With no mark and no agent enabled the run has ended: outside READY the controller polls or collects, and in READY it
has no word left. -/
theorem final_of_no_agent {s : State} (h : Inv s) (noFault : s.fault = none) (noRefusal : s.refused = none)
    (hcontroller : controllerEnabled s = false) : s.final = true := by
  simp only [controllerEnabled, noFault, noRefusal, Option.isNone_none, Bool.true_and] at hcontroller
  cases phase : s.phase with
  | poll k d => simp [phase] at hcontroller
  | collect k => simp [phase] at hcontroller
  | ready =>
    have hend : s.cmd.length ≤ s.cp := by simpa [phase] using hcontroller
    exact State.final_iff.mpr ⟨phase, h.stream.antisymm hend, noFault, noRefusal,
      fun k => ((phaseInv_of_ready phase).mp h.phase k).1⟩

/-- The stop of a state without enabled agents is one of the three that the spec names. -/
theorem specStop_stop {s : State} (h : Inv s) (hcontroller : controllerEnabled s = false) : specStop (stop s) := by
  cases hfault : s.fault with
  | some r => simp only [stop, hfault, specStop]
  | none =>
    cases hrefused : s.refused with
    | some r => simp only [stop, hfault, hrefused, specStop]
    | none =>
      have hfinal := final_of_no_agent h hfault hrefused hcontroller
      simp only [stop, hfault, hrefused, hfinal, if_true, specStop]

/-- Settles O29: an enabled agent has a next state, and without one the stop is the mark's or the end of the run. -/
theorem onlyTheSpecsStopsAreReached : Obligations.OnlyTheSpecsStopsAreReached := by
  intro env s h
  obtain ⟨hnone, hstop⟩ | ⟨a, ha, hstep | hstep⟩ := stepUnder_cases env s
  · have hcontroller : controllerEnabled s = false := Bool.eq_false_iff.mpr fun hc =>
      List.not_mem_nil (hnone ▸ (mem_enabledAgents (a := .controller)).mpr hc)
    exact .inr (hstop ▸ specStop_stop h hcontroller)
  · exact .inl (hstep ▸ exists_agentStep_next h.units ha)
  · exact .inl (hstep ▸ exists_agentStep_next (h.withTurns _).units ((agentEnabled_turnTaken s a).trans ha))

end Sys2Proof.Machine

/-! # A TRANSFER comes to its end (41_transaction.md R133 to R144) -/

namespace Sys2Proof.Machine

/-! ## Waiting for the peripheral -/

/-- A busy poll in which the peripheral of the polled unit, and it alone, has a step. -/
structure Polling (s : State) (k : UnitId) (d : Byte) : Prop where
  phase : s.phase = .poll k d
  busy : (s.reg.get k).busy = true
  noFault : s.fault = none
  noRefusal : s.refused = none
  enabled : agentEnabled s (.peripheral k) = true
  alone : agentEnabled s (.peripheral k.other) = false

section
variable {env : Env} {s : State} {k : UnitId} {d : Byte}

theorem runUnder_one : runUnder env 1 s = stepUnder env s := by
  cases h : stepUnder env s <;> simp only [runUnder, h]

theorem runUnder_succ {t : State} (h : stepUnder env s = .next t) (n : Nat) :
    runUnder env (n + 1) s = runUnder env n t := by
  simp only [runUnder, h]

theorem Polling.stepUnder_eq (h : Polling s k d) :
    stepUnder env s = agentStep env s.turnTaken (chosen env s .controller) := by
  have hcontroller := controllerEnabled_of_poll h.noFault h.noRefusal h.phase
  simp only [stepUnder, scheduledStep, enabledAgents_pair hcontroller h.enabled h.alone]

/-- Where it is not the peripheral's turn the controller polls once more. -/
theorem Polling.stepUnder_of_not_turn (h : Polling s k d) (hturn : env.turn s.turns ≠ .peripheral k) :
    stepUnder env s = .next s.turnTaken := by
  have hchosen : chosen env s .controller = .controller := by
    unfold chosen
    split
    · next henabled =>
      cases hagent : env.turn s.turns with
      | controller => rfl
      | peripheral u =>
        rw [hagent] at henabled hturn
        obtain rfl | rfl := k.eq_or_eq_other u
        · exact absurd rfl hturn
        · exact absurd henabled (Bool.eq_false_iff.mp h.alone)
    · rfl
  rw [h.stepUnder_eq, hchosen]
  exact controllerStep_of_busy (s := s.turnTaken) h.phase h.busy

theorem Polling.runUnder_one_of_turn (h : Polling s k d) (hturn : env.turn s.turns = .peripheral k) :
    runUnder env 1 s = agentStep env s.turnTaken (.peripheral k) := by
  rw [runUnder_one, h.stepUnder_eq, chosen_of_turn hturn h.enabled]

/-- A poll goes on until the peripheral's turn `j` choices later, and changes nothing but the count of choices until
then. -/
theorem Polling.exists_run_to_turn (h : Polling s k d) {j : Nat} (hturn : env.turn (s.turns + j) = .peripheral k) :
    ∃ n m, runUnder env n s = agentStep env { s with turns := m } (.peripheral k) := by
  induction j generalizing s with
  | zero => exact ⟨1, s.turns + 1, h.runUnder_one_of_turn hturn⟩
  | succ j ih =>
    by_cases hnow : env.turn s.turns = .peripheral k
    · exact ⟨1, s.turns + 1, h.runUnder_one_of_turn hnow⟩
    · have hlater : env.turn (s.turnTaken.turns + j) = .peripheral k := by
        rw [State.turnTaken_turns, Nat.add_right_comm, Nat.add_assoc]
        exact hturn
      obtain ⟨n, m, hrun⟩ := ih (s := s.turnTaken)
        ⟨h.phase, h.busy, h.noFault, h.noRefusal, h.enabled, h.alone⟩ hlater
      exact ⟨n + 1, m, (runUnder_succ (h.stepUnder_of_not_turn hnow) n).trans hrun⟩

/-- Under PeripheralCompletes a poll runs to the peripheral's step. -/
theorem Polling.exists_run (h : Polling s k d) (completes : PeripheralCompletes env k) :
    ∃ n m, runUnder env n s = agentStep env { s with turns := m } (.peripheral k) := by
  obtain ⟨m, hm, hturn⟩ := completes s.turns
  obtain ⟨j, rfl⟩ := Nat.exists_eq_add_of_le hm
  exact h.exists_run_to_turn hturn

/-- With no peripheral step pending the machine's step is the controller's. -/
theorem stepUnder_of_controller_alone (hcontroller : controllerEnabled s = true)
    (idle : ∀ k, agentEnabled s (.peripheral k) = false) : stepUnder env s = controllerStep env s := by
  simp only [stepUnder, scheduledStep, enabledAgents_controller hcontroller idle, agentStep]

end

/-! ## The states of one TRANSFER -/

/-- The queues with the TRANSFER's byte waiting to be sent. -/
def UnitPer.queued (d : Byte) : UnitPer := { txq := [d], rxq := [], shift := none }

/-- The queues with the TRANSFER's byte in flight. -/
def UnitPer.inFlight (d : Byte) : UnitPer := { txq := [], rxq := [], shift := some d }

/-- The queues with the byte received for it. -/
def UnitPer.received (r : Byte) : UnitPer := { txq := [], rxq := [r], shift := none }

/-- The state in which a TRANSFER of unit `k` began, with the queues and BUSY of `k`, the phase, the new events and the
model's counts as they are on the way. -/
def State.during (s : State) (k : UnitId) (p : UnitPer) (busy : Bool) (phase : Phase) (events : List BusEvent)
    (turns draws : Nat) : State :=
  { s with
    per := s.per.set k p
    reg := s.reg.set k { s.reg.get k with busy := busy }
    phase := phase
    bus := s.bus ++ events
    turns := turns
    draws := draws }

section
variable {env : Env} {s : State} {k : UnitId} {d r : Byte} {p : UnitPer} {busy : Bool} {phase : Phase}
  {events : List BusEvent} {turns draws : Nat}

theorem State.during_per_self : (s.during k p busy phase events turns draws).per.get k = p :=
  Units.get_set_self _ _ _

theorem State.during_per_other : (s.during k p busy phase events turns draws).per.get k.other = s.per.get k.other :=
  Units.get_set_other _ _ _

theorem State.during_reg_self :
    (s.during k p busy phase events turns draws).reg.get k = { s.reg.get k with busy := busy } :=
  Units.get_set_self _ _ _

theorem UnitPer.eq_of_empty {p : UnitPer} (h : p.empty) : p = { txq := [], rxq := [], shift := none } := by
  obtain ⟨⟨htxq, hshift⟩, hrxq⟩ := h
  cases p
  simp only at htxq hshift hrxq
  rw [htxq, hshift, hrxq]

theorem issue_eq_during (hempty : (s.per.get k).empty) :
    issue k d s = s.during k (.queued d) true (.poll k d) [] s.turns s.draws := by
  rw [issue_eq, UnitPer.eq_of_empty hempty, State.during, List.append_nil]
  rfl

/-- While a byte is queued or in flight the unit is polled and its peripheral, alone, has a step. -/
theorem polling_during (noFault : s.fault = none) (noRefusal : s.refused = none)
    (hother : (s.per.get k.other).empty) (henable : (s.reg.get k).ctrl1.enable = true)
    (hp : p = .queued d ∨ p = .inFlight d) :
    Polling (s.during k p true (.poll k d) events turns draws) k d where
  phase := rfl
  busy := by rw [State.during_reg_self]
  noFault := noFault
  noRefusal := noRefusal
  enabled := by
    obtain rfl | rfl := hp <;>
      simp [agentEnabled, frameStartEnabled, frameEndEnabled, State.during_per_self, State.during_reg_self, henable,
        UnitPer.queued, UnitPer.inFlight]
  alone := agentEnabled_peripheral_of_quiet (State.during_per_other.symm ▸ hother.1)

/-- The frame start of the TRANSFER's byte. -/
theorem agentStep_during_queued :
    agentStep env (s.during k (.queued d) true phase events turns draws) (.peripheral k) =
      .next (s.during k (.inFlight d) true phase (events ++ [.frameStart k d]) turns draws) := by
  rw [agentStep_of_noFrame (congrArg UnitPer.shift State.during_per_self),
    frameStart_of_queued (congrArg UnitPer.txq State.during_per_self), State.during_per_self]
  simp only [State.during, Units.set_set, List.append_assoc]
  rfl

/-- The frame end of the TRANSFER's byte. -/
theorem agentStep_during_inFlight {level : Bool}
    (hline : (s.during k (.inFlight d) true phase events turns draws).csLine? k = some level) :
    agentStep env (s.during k (.inFlight d) true phase events turns draws) (.peripheral k) =
      .next (s.during k (.received (env.byte draws)) false phase (events ++ [.frame k d (env.byte draws) level]) turns
        (draws + 1)) := by
  rw [agentStep_of_inFlight (congrArg UnitPer.shift State.during_per_self),
    frameEnd_of_inFlight (congrArg UnitPer.shift State.during_per_self), State.during_per_self,
    State.during_reg_self, State.csLine, hline]
  simp only [State.during, Units.set_set, List.append_assoc]
  rfl

section
variable (completes : PeripheralCompletes env k) (noFault : s.fault = none) (noRefusal : s.refused = none)
  (hother : (s.per.get k.other).empty) (henable : (s.reg.get k).ctrl1.enable = true)
include completes noFault noRefusal hother henable

theorem exists_run_frameStart : ∃ n m,
    runUnder env n (s.during k (.queued d) true (.poll k d) events turns draws) =
      .next (s.during k (.inFlight d) true (.poll k d) (events ++ [.frameStart k d]) m draws) := by
  obtain ⟨n, m, hrun⟩ := (polling_during noFault noRefusal hother henable (.inl rfl)).exists_run completes
  exact ⟨n, m, hrun.trans (agentStep_during_queued (turns := m))⟩

theorem exists_run_frameEnd {level : Bool}
    (hline : ∀ m, (s.during k (.inFlight d) true (.poll k d) events m draws).csLine? k = some level) : ∃ n m,
    runUnder env n (s.during k (.inFlight d) true (.poll k d) events turns draws) =
      .next (s.during k (.received (env.byte draws)) false (.poll k d)
        (events ++ [.frame k d (env.byte draws) level]) m (draws + 1)) := by
  obtain ⟨n, m, hrun⟩ := (polling_during noFault noRefusal hother henable (.inr rfl)).exists_run completes
  exact ⟨n, m, hrun.trans (agentStep_during_inFlight (hline m))⟩

end

/-- The poll of the exchanged byte and the collect. -/
theorem run_during_received (noFault : s.fault = none) (noRefusal : s.refused = none)
    (hempty : ∀ u, (s.per.get u).empty) (hidle : (s.reg.get k).busy = false) :
    runUnder env 2 (s.during k (.received r) false (.poll k d) events turns draws) =
      .next { s with
        resp := s.resp ++ [.byte r]
        bus := s.bus ++ events
        cp := s.cp + 1
        phase := .ready
        turns := turns
        draws := draws } := by
  have idle (ph : Phase) (u : UnitId) :
      agentEnabled (s.during k (.received r) false ph events turns draws) (.peripheral u) = false := by
    obtain rfl | rfl := k.eq_or_eq_other u
    · refine agentEnabled_peripheral_of_quiet ?_
      rw [State.during_per_self]
      exact ⟨rfl, rfl⟩
    · refine agentEnabled_peripheral_of_quiet ?_
      rw [State.during_per_other]
      exact (hempty _).1
  have enabled (ph : Phase) (hph : ph ≠ .ready) :
      controllerEnabled (s.during k (.received r) false ph events turns draws) = true := by
    cases ph with
    | ready => exact absurd rfl hph
    | poll | collect => simp [controllerEnabled, State.during, noFault, noRefusal]
  have hpoll : stepUnder env (s.during k (.received r) false (.poll k d) events turns draws) =
      .next (s.during k (.received r) false (.collect k) events turns draws) := by
    rw [stepUnder_of_controller_alone (enabled _ (by simp)) (idle _), controllerStep_of_poll rfl,
      pollStep_of_idle (congrArg UnitRegs.busy State.during_reg_self)]
    rfl
  rw [runUnder_succ hpoll, runUnder_one, stepUnder_of_controller_alone (enabled _ (by simp)) (idle _),
    controllerStep_of_collect rfl, collectStep_of_waiting (congrArg UnitPer.rxq State.during_per_self),
    State.during_per_self]
  have hper : s.per.set k { txq := [], rxq := [], shift := none } = s.per := by
    rw [← UnitPer.eq_of_empty (hempty k), Units.set_get]
  have hreg : s.reg.set k { s.reg.get k with busy := false } = s.reg := by
    rw [← hidle, Units.set_get]
  simp only [State.during, UnitPer.received, Units.set_set, hper, hreg]

end

/-- The chip-select level of a frame: low under the peripheral-automated discipline, the driven level under the
software-toggled one (41_transaction.md R142 to R144). -/
theorem csLine?_during_inFlight {s : State} {k : UnitId} {b : Binding} {x : PinState} {d : Byte} {busy : Bool}
    {phase : Phase} {events : List BusEvent} {turns draws : Nat} (h : BindingInv s k b)
    (hb : s.binding? k = some b) (hx : s.pin? b.pinCs = some x) :
    (s.during k (.inFlight d) busy phase events turns draws).csLine? k =
      some (if b.hwcs then false else x.out) := by
  refine State.csLine?_eq_some.mpr ⟨b, x, hb, hx, ?_⟩
  obtain ⟨y, hy, hdiscipline⟩ := h.cs_pin
  cases hx.symm.trans hy
  cases hw : b.hwcs with
  | false =>
    rw [hw] at hdiscipline
    obtain ⟨hfunc, hoe⟩ := hdiscipline
    exact .inl ⟨rfl, hfunc, hoe, rfl⟩
  | true =>
    rw [hw] at hdiscipline
    refine .inr ⟨rfl, hdiscipline, ?_⟩
    rw [State.during_per_self]
    rfl

/-- Settles O59: issue, poll to the frame start, poll to the frame end, then poll and collect. -/
theorem transferCompletesWhenThePeripheralDoes : Obligations.TransferCompletesWhenThePeripheralDoes := by
  intro env s k d b x w0 rest h completes ready noFault noRefusal hconf hbind hpin words dec
  have hempty := (phaseInv_of_ready ready).mp h.phase
  have hb : s.binding? k = some b := State.binding?_eq_some.mpr ⟨hconf, hbind⟩
  have hinv : BindingInv s k b := hbind ▸ UnitInv.bound (h.units k) hconf
  have hidle : (s.reg.get k).busy = false := (idle_iff_quiet (h.busy k)).mpr (hempty k).1
  have hissue : runUnder env 1 s = .next (issue k d s) := by
    rw [runUnder_one, stepUnder_of_ready env ready noFault noRefusal
      (fun u => agentEnabled_peripheral_of_quiet (hempty u).1) words, readyStep_of_ok words dec, exec_transfer_field,
      if_pos hconf]
  rw [issue_eq_during (hempty k)] at hissue
  obtain ⟨n1, m1, hstart⟩ := exists_run_frameStart (d := d) (events := []) (turns := s.turns) (draws := s.draws)
    completes noFault noRefusal (hempty k.other) hinv.enabled
  obtain ⟨n2, m2, hend⟩ := exists_run_frameEnd (turns := m1) completes noFault noRefusal (hempty k.other)
    hinv.enabled fun _ => csLine?_during_inFlight hinv hb hpin
  refine ⟨1 + (n1 + (n2 + 2)), m2, ?_⟩
  rw [runUnder_add env 1 _ hissue, runUnder_add env n1 _ hstart, runUnder_add env n2 2 hend,
    run_during_received noFault noRefusal hempty hidle, ← ready]
  rfl

end Sys2Proof.Machine

/-! # The register window (20_memory.md R54, R60, R66) -/

namespace Sys2Proof.Machine

/-! ## Effective addresses -/

/-- The register of a unit's window at an offset; the inverse of `RegName.offset`. -/
def regAt : Nat → RegName
  | 0x000 => .ctrl
  | 0x004 => .ctrl1
  | 0x008 => .data
  | 0x00C => .status
  | 0x010 => .prescale
  | 0x014 => .imsc
  | 0x018 => .ris
  | 0x01C => .mis
  | 0x020 => .icr
  | 0x024 => .dmacr
  | n => .ident (Fin.ofNat 8 ((n - 0xFE0) / 4))

theorem regAt_offset (r : RegName) : regAt r.offset = r := by
  cases r with
  | ident k => revert k; decide
  | _ => rfl

theorem RegName.offset_injective : Function.Injective RegName.offset :=
  Function.LeftInverse.injective regAt_offset

/-- Every register lies in the 4 KiB window, at a multiple of 4. -/
theorem RegName.offset_bounds (r : RegName) : r.offset < 4096 ∧ r.offset % 4 = 0 := by
  cases r with
  | ident k => revert k; decide
  | _ => decide

section
variable {p : Platform} {nPins : Nat}

theorem base_add_le (h : p.Wf nPins) (u : UnitId) : (p.base.get u).toNat + 4096 ≤ 2 ^ 32 := by
  obtain ⟨h0, h1, -⟩ := h.windows_apart
  cases u
  · exact h0
  · exact h1

/-- The windows of two units lie apart (20_memory.md R51, R60). -/
theorem bases_apart (h : p.Wf nPins) {u v : UnitId} (huv : u ≠ v) :
    (p.base.get u).toNat + 4096 ≤ (p.base.get v).toNat ∨ (p.base.get v).toNat + 4096 ≤ (p.base.get u).toNat := by
  obtain ⟨-, -, hapart⟩ := h.windows_apart
  cases u <;> cases v
  · exact absurd rfl huv
  · exact hapart
  · exact hapart.symm
  · exact absurd rfl huv

/-- The window ends before the addition would wrap. -/
theorem effAddr_toNat (h : p.Wf nPins) (u : UnitId) (r : RegName) :
    (effAddr p u r).toNat = (p.base.get u).toNat + r.offset := by
  have hbase := base_add_le h u
  obtain ⟨hoffset, -⟩ := r.offset_bounds
  rw [effAddr, BitVec.toNat_add, BitVec.toNat_ofNat, Nat.mod_eq_of_lt (a := r.offset) (by omega),
    Nat.mod_eq_of_lt (by omega)]

end

/-- Settles O43: the sum of two multiples of 4 within the window. -/
theorem effectiveAddressesAreAligned : Obligations.EffectiveAddressesAreAligned := by
  intro p nPins u r h
  have hbase := h.base_aligned u
  obtain ⟨-, hoffset⟩ := r.offset_bounds
  refine ⟨effAddr_toNat h u r, ?_⟩
  rw [effAddr_toNat h u r]
  omega

/-- Settles O42: addresses of two units lie in windows apart, and those of one unit differ by their offsets. -/
theorem effectiveAddressesAreDistinct : Obligations.EffectiveAddressesAreDistinct := by
  intro p nPins u v a b h heq
  have hsum : (p.base.get u).toNat + a.offset = (p.base.get v).toNat + b.offset := by
    rw [← effAddr_toNat h u a, heq, effAddr_toNat h v b]
  by_cases huv : u = v
  · subst huv
    exact ⟨rfl, RegName.offset_injective (Nat.add_left_cancel hsum)⟩
  · obtain ⟨ha, -⟩ := a.offset_bounds
    obtain ⟨hb, -⟩ := b.offset_bounds
    obtain hapart | hapart := bases_apart h huv <;> omega

/-! ## Masked writes -/

section
variable {old mask new : Word} {lo len : Nat}

theorem bits_maskedWrite_of_covered (hmask : bits mask lo len = BitVec.allOnes len)
    (hrest : bits (~~~mask) lo len = 0) : bits (maskedWrite old mask new) lo len = bits new lo len := by
  rw [maskedWrite, bits, BitVec.extractLsb'_or, ← bits, ← bits, bits_and_of_ignored hrest, bits_and_of_kept hmask]
  exact BitVec.zero_or

theorem bits_maskedWrite_of_kept (hmask : bits mask lo len = 0) (hrest : bits (~~~mask) lo len = BitVec.allOnes len) :
    bits (maskedWrite old mask new) lo len = bits old lo len := by
  rw [maskedWrite, bits, BitVec.extractLsb'_or, ← bits, ← bits, bits_and_of_kept hrest, bits_and_of_ignored hmask]
  exact BitVec.or_zero

end

theorem Ctrl.toWord_toNat (c : Ctrl) : c.toWord.toNat =
    c.reserved.toNat * 2 ^ 16 + c.scaleRate.toNat * 2 ^ 8 + c.cpha.toNat * 2 ^ 7 + c.cpol.toNat * 2 ^ 6 +
      c.frf.toNat * 2 ^ 4 + c.dss.toNat := by
  simp only [Ctrl.toWord, toNat_append_eq, BitVec.toNat_ofBool]
  omega

theorem bits_toWord_reserved (c : Ctrl) : bits c.toWord 16 16 = c.reserved := by
  simp (disch := decide) only [bits, Ctrl.toWord, BitVec.extractLsb'_append_eq_of_le, Nat.reduceSub,
    BitVec.extractLsb'_eq_self]

/-- The write of the five CTRL fields keeps the upper half and replaces the lower one. -/
theorem toWord_program (c : Ctrl) (cpol cpha : Bool) (rate : BitVec 8) :
    (c.program cpol cpha rate).toWord = maskedWrite c.toWord ctrlMask
      (BitVec.ofNat 32 (rate.toNat * 2 ^ 8 + cpha.toNat * 2 ^ 7 + cpol.toNat * 2 ^ 6 + 7)) := by
  rw [eq_iff_bits, bits_eq_bits_iff_split 16 16 rfl]
  constructor
  · rw [bits_maskedWrite_of_covered (by decide) (by decide)]
    apply BitVec.eq_of_toNat_eq
    have hrate := rate.isLt
    have hcpha := cpha.toNat_le
    have hcpol := cpol.toNat_le
    simp only [bits_toNat, Ctrl.toWord_toNat, Ctrl.program, BitVec.toNat_ofNat, Config.frameSpi, Config.size8,
      BitVec.reduceToNat, Nat.pow_zero, Nat.div_one]
    omega
  · rw [bits_maskedWrite_of_kept (by decide) (by decide)]
    exact (bits_toWord_reserved _).trans (bits_toWord_reserved c).symm

theorem Ctrl.ofWord_toWord (c : Ctrl) : Ctrl.ofWord c.toWord = c := by
  cases c
  simp (disch := decide) only [Ctrl.ofWord, Ctrl.toWord, BitVec.extractLsb'_append_eq_of_le,
    BitVec.extractLsb'_append_eq_of_add_le, Nat.reduceSub, BitVec.extractLsb'_eq_self, BitVec.getLsbD_append]
  simp

theorem Ctrl.toWord_ofWord (w : Word) : (Ctrl.ofWord w).toWord = w :=
  calc bits w 16 16 ++ bits w 8 8 ++ BitVec.ofBool (w.getLsbD 7) ++ BitVec.ofBool (w.getLsbD 6) ++ bits w 4 2 ++
        bits w 0 4
    _ = bits w 16 16 ++ bits w 8 8 ++ bits w 7 1 ++ bits w 6 1 ++ bits w 4 2 ++ bits w 0 4 := by
        rw [ofBool_getLsbD, ofBool_getLsbD]
    _ = bits w 0 32 := by
        rw [bits_append_bits w 8 8, bits_append_bits w 7 1, bits_append_bits w 6 1, bits_append_bits w 4 2,
          bits_append_bits w 0 4]
    _ = w := BitVec.extractLsb'_eq_self

/-- Settles O41: CTRL by its two halves, CTRL1 over the values of its four bits. -/
theorem controlWritesAreMaskedWrites : Obligations.ControlWritesAreMaskedWrites := by
  refine ⟨toWord_program, ?enable, Ctrl.ofWord_toWord, ?ctrl1, Ctrl.toWord_ofWord⟩
  case enable => rintro ⟨lbm, enable, ms, sod⟩; revert lbm enable ms sod; decide
  case ctrl1 => rintro ⟨lbm, enable, ms, sod⟩; revert lbm enable ms sod; decide

end Sys2Proof.Machine

/-! # What a command does not read (00_scope.md R2, 20_memory.md R60, 10_state.md R44) -/

namespace Sys2Proof.Machine

/-! ## Replacing per-unit data -/

/-- A next state replaced; a stop as it is. -/
def mapNext (f : State → State) : Host.Outcome State Fault Refusal → Host.Outcome State Fault Refusal
  | .next t => .next (f t)
  | .fault r => .fault r
  | .refused r => .refused r

/-- Replacements of CFG, REG and PER. -/
structure UnitsMap where
  cfg : Units UnitCfg → Units UnitCfg
  reg : Units UnitRegs → Units UnitRegs
  per : Units UnitPer → Units UnitPer

/-- The state with its per-unit data replaced. -/
def UnitsMap.apply (m : UnitsMap) (s : State) : State :=
  { s with cfg := m.cfg s.cfg, reg := m.reg s.reg, per := m.per s.per }

/-- The replacement cannot be seen from unit `k`: what the unit reads is as it was, and what it writes is written
either way. -/
structure UnitsMap.Unseen (m : UnitsMap) (k : UnitId) : Prop where
  configured : ∀ x, ((m.cfg x).get k).configured = (x.get k).configured
  binding : ∀ x, (x.get k).configured = true → ((m.cfg x).get k).binding = (x.get k).binding
  cfg_set : ∀ x c, c.configured = true → (m.cfg x).set k c = m.cfg (x.set k c)
  reg_get : ∀ x, (m.reg x).get k = x.get k
  reg_set : ∀ x r, (m.reg x).set k r = m.reg (x.set k r)
  per_get : ∀ x, (m.per x).get k = x.get k
  per_set : ∀ x p, (m.per x).set k p = m.per (x.set k p)

section
variable {m : UnitsMap} {k : UnitId} {s : State}

theorem UnitsMap.Unseen.binding?_apply (h : m.Unseen k) : (m.apply s).binding? k = s.binding? k := by
  have hconf : ((m.apply s).cfg.get k).configured = (s.cfg.get k).configured := h.configured s.cfg
  cases hc : (s.cfg.get k).configured with
  | true =>
    exact (State.binding?_eq_some.mpr ⟨hconf.trans hc, h.binding s.cfg hc⟩).trans
      (State.binding?_eq_some.mpr ⟨hc, rfl⟩).symm
  | false =>
    exact (State.binding?_eq_none.mpr (hconf.trans hc)).trans (State.binding?_eq_none.mpr hc).symm

/-! ## The commands -/

/-- The registers that a commit leaves in its unit. -/
def CommitArgs.regs (a : CommitArgs) (r : UnitRegs) : UnitRegs :=
  { r with
    ctrl := r.ctrl.program (cpolOf a.mode) (cphaOf a.mode) a.div.scaleRate
    ctrl1 := r.ctrl1.setEnable
    prescale := a.div.prescale }

/-- The commit in every field, its pins and events apart. -/
theorem commit_eq (a : CommitArgs) (s : State) : commit a s =
    { s with
      cfg := s.cfg.set a.unit { configured := true, binding := a.binding }
      reg := s.reg.set a.unit (a.regs (s.reg.get a.unit))
      pins := (commit a s).pins
      bus := (commit a s).bus } := by
  rw [CommitArgs.regs, ← commit_cfg, ← commit_reg, ← commit_plat a s, ← commit_cmd a s, ← commit_per a s,
    ← commit_cp a s, ← commit_phase a s, ← commit_resp a s, ← commit_fault a s, ← commit_refused a s,
    ← commit_turns a s, ← commit_draws a s]

theorem commit_apply {a : CommitArgs} (h : m.Unseen a.unit) : commit a (m.apply s) = m.apply (commit a s) := by
  have hpins : (commit a (m.apply s)).pins = (commit a s).pins := commit_pins_congr a rfl
  have hbus : (commit a (m.apply s)).bus = (commit a s).bus := commit_bus_congr a rfl rfl
  rw [commit_eq a (m.apply s), hpins, hbus]
  refine Eq.trans ?_ (congrArg m.apply (commit_eq a s)).symm
  simp only [UnitsMap.apply, h.cfg_set, h.reg_get, h.reg_set]

theorem execConfigure_apply {u : BitVec 4} {sck tx rx cs : Byte} {freqReq : BitVec 32} {mode : BitVec 8} {hwcs : Bool}
    (h : ∀ k, unitOf u = some k → m.Unseen k) :
    execConfigure u sck tx rx cs freqReq mode hwcs (m.apply s) =
      mapNext m.apply (execConfigure u sck tx rx cs freqReq mode hwcs s) := by
  obtain ⟨hinvalid, he⟩ | ⟨hvalid, hunfit, he⟩ | ⟨k, hk, hvalid, hfit, he⟩ :=
    execConfigure_cases u sck tx rx cs freqReq mode hwcs s
  · rw [he, execConfigure_of_invalid (s := m.apply s) hinvalid]
    rfl
  · rw [he, execConfigure_of_unadmitted (s := m.apply s) hvalid hunfit]
    rfl
  · obtain rfl := unitOf_eq_some.mp hk
    rw [he, execConfigure_of_admitted (s := m.apply s) hvalid hfit]
    exact congrArg (fun t => Host.Outcome.next (finishConfigure true t))
      (commit_apply (a := configureArgs s.plat.fSys k sck tx rx cs freqReq mode hwcs) (h k hk))

theorem toggleChipSelect_apply (h : m.Unseen k) (level : Bool) :
    toggleChipSelect k level (m.apply s) = mapNext m.apply (toggleChipSelect k level s) := by
  have hbound : (m.apply s).binding? k = s.binding? k := h.binding?_apply
  cases hb : s.binding? k with
  | none =>
    rw [toggleChipSelect_of_unconfigured (State.binding?_eq_none.mp hb),
      toggleChipSelect_of_unconfigured (State.binding?_eq_none.mp (hbound.trans hb))]
    rfl
  | some b =>
    cases hw : b.hwcs with
    | true =>
      rw [toggleChipSelect_of_automated hb hw, toggleChipSelect_of_automated (hbound.trans hb) hw]
      rfl
    | false =>
      obtain hp | hp := Nat.lt_or_ge b.pinCs.toNat s.nPins
      · rw [toggleChipSelect_of_software hb hw hp, toggleChipSelect_of_software (hbound.trans hb) hw hp]
        rfl
      · rw [toggleChipSelect_of_absent_pin hb hw hp, toggleChipSelect_of_absent_pin (hbound.trans hb) hw hp]
        rfl

theorem issue_apply (h : m.Unseen k) (d : Byte) : issue k d (m.apply s) = m.apply (issue k d s) := by
  simp only [issue_eq, UnitsMap.apply, h.per_get, h.per_set, h.reg_get, h.reg_set]

end

/-- The UNIT field of a command. -/
def commandUnit : Instr → BitVec 4
  | .configure u _ _ _ _ _ _ _ => u
  | .beginTxn u => u
  | .transfer u _ => u
  | .endTxn u => u

/-- A command does the same on a state replaced where its unit does not see it. -/
theorem exec_apply {m : UnitsMap} {i : Instr} (h : ∀ k, unitOf (commandUnit i) = some k → m.Unseen k) (s : State) :
    exec i (m.apply s) = mapNext m.apply (exec i s) := by
  cases i with
  | configure u sck tx rx cs freqReq mode hwcs => exact execConfigure_apply h
  | beginTxn u =>
    simp only [exec, execBegin]
    cases hu : unitOf u with
    | none => rfl
    | some k => exact toggleChipSelect_apply (h k hu) _
  | transfer u d =>
    simp only [exec, execTransfer]
    cases hu : unitOf u with
    | none => rfl
    | some k =>
      have hconf : ((m.apply s).cfg.get k).configured = (s.cfg.get k).configured := (h k hu).configured s.cfg
      simp only [hconf]
      split
      · rw [issue_apply (h k hu)]
        rfl
      · rfl
  | endTxn u =>
    simp only [exec, execEnd]
    cases hu : unitOf u with
    | none => rfl
    | some k => exact toggleChipSelect_apply (h k hu) _

/-! ## The other unit -/

/-- The other unit's data replaced. -/
def replaceOther (k : UnitId) (c : UnitCfg) (r : UnitRegs) (p : UnitPer) : UnitsMap where
  cfg x := x.set k.other c
  reg x := x.set k.other r
  per x := x.set k.other p

theorem replaceOther_unseen (k : UnitId) (c : UnitCfg) (r : UnitRegs) (p : UnitPer) :
    (replaceOther k c r p).Unseen k where
  configured x := congrArg UnitCfg.configured (x.get_set_of_ne c k.ne_other)
  binding x _ := congrArg UnitCfg.binding (x.get_set_of_ne c k.ne_other)
  cfg_set x _ _ := x.set_comm _ _ k.other_ne
  reg_get x := x.get_set_of_ne r k.ne_other
  reg_set x _ := x.set_comm _ _ k.other_ne
  per_get x := x.get_set_of_ne p k.ne_other
  per_set x _ := x.set_comm _ _ k.other_ne

/-- Replacing the other unit's data by what they are changes nothing. -/
theorem replaceOther_self (k : UnitId) (s : State) :
    (replaceOther k (s.cfg.get k.other) (s.reg.get k.other) (s.per.get k.other)).apply s = s := by
  simp only [UnitsMap.apply, replaceOther, Units.set_get]

/-- Settles O30: a command of a unit does not see the other unit's data replaced; replaced by themselves, they must
stand in the next state as they were. -/
theorem commandsOfOneUnitIgnoreTheOther : Obligations.CommandsOfOneUnitIgnoreTheOther := by
  intro s t k i c r p hi hexec
  have hunit : commandUnit i = k.field := by cases i <;> exact hi
  have happly (c : UnitCfg) (r : UnitRegs) (p : UnitPer) :
      exec i ((replaceOther k c r p).apply s) = .next ((replaceOther k c r p).apply t) := by
    refine (exec_apply (fun u hu => ?_) s).trans (congrArg (mapNext _) hexec)
    rw [hunit, unitOf_field] at hu
    cases hu
    exact replaceOther_unseen k c r p
  have hself := happly (s.cfg.get k.other) (s.reg.get k.other) (s.per.get k.other)
  rw [replaceOther_self, hexec] at hself
  have hfields := Host.Outcome.next.inj hself
  refine ⟨happly c r p, ?cfg, ?reg, ?per⟩
  case cfg => exact (congrArg (fun x => x.cfg.get k.other) hfields).trans (Units.get_set_self _ _ _)
  case reg => exact (congrArg (fun x => x.reg.get k.other) hfields).trans (Units.get_set_self _ _ _)
  case per => exact (congrArg (fun x => x.per.get k.other) hfields).trans (Units.get_set_self _ _ _)

/-! ## A replacement that no unit sees -/

section
variable {m : UnitsMap} {env : Env} {s : State} (h : ∀ k, m.Unseen k)
include h

theorem frameStart_apply (k : UnitId) : frameStart k (m.apply s) = m.apply (frameStart k s) := by
  have hper : (m.apply s).per.get k = s.per.get k := (h k).per_get s.per
  cases htxq : (s.per.get k).txq with
  | nil => simp only [frameStart, hper, htxq]
  | cons d rest =>
    rw [frameStart_of_queued htxq, frameStart_of_queued ((congrArg UnitPer.txq hper).trans htxq), hper]
    simp only [UnitsMap.apply, (h k).per_set]

theorem csLine_apply (k : UnitId) : (m.apply s).csLine env k = s.csLine env k := by
  have hper : (m.apply s).per.get k = s.per.get k := (h k).per_get s.per
  have hpin (q : Byte) : (m.apply s).pin? q = s.pin? q := rfl
  have hdraws : (m.apply s).draws = s.draws := rfl
  simp only [State.csLine, State.csLine?, (h k).binding?_apply, hper, hpin, hdraws]

theorem frameEnd_apply (k : UnitId) : frameEnd env k (m.apply s) = m.apply (frameEnd env k s) := by
  have hper : (m.apply s).per.get k = s.per.get k := (h k).per_get s.per
  have hreg : (m.apply s).reg.get k = s.reg.get k := (h k).reg_get s.reg
  cases hshift : (s.per.get k).shift with
  | none => simp only [frameEnd, hper, hshift]
  | some d =>
    rw [frameEnd_of_inFlight hshift, frameEnd_of_inFlight ((congrArg UnitPer.shift hper).trans hshift), hper, hreg,
      csLine_apply h]
    simp only [UnitsMap.apply, (h k).per_set, (h k).reg_set]

theorem pollStep_apply (k : UnitId) : pollStep k (m.apply s) = m.apply (pollStep k s) := by
  have hreg : (m.apply s).reg.get k = s.reg.get k := (h k).reg_get s.reg
  unfold pollStep
  rw [hreg]
  split <;> rfl

theorem collectStep_apply (k : UnitId) : collectStep env k (m.apply s) = m.apply (collectStep env k s) := by
  have hper : (m.apply s).per.get k = s.per.get k := (h k).per_get s.per
  cases hrxq : (s.per.get k).rxq with
  | nil =>
    rw [collectStep_of_empty hrxq, collectStep_of_empty ((congrArg UnitPer.rxq hper).trans hrxq)]
    rfl
  | cons r rest =>
    rw [collectStep_of_waiting hrxq, collectStep_of_waiting ((congrArg UnitPer.rxq hper).trans hrxq), hper]
    simp only [UnitsMap.apply, (h k).per_set]

theorem readyStep_apply : readyStep (m.apply s) = mapNext m.apply (readyStep s) := by
  cases words : s.cmd.drop s.cp with
  | nil =>
    have hfetch : s.fetch = none := by simp only [State.fetch, words]
    have hfetch' : (m.apply s).fetch = none := hfetch
    simp only [readyStep, hfetch, hfetch', mapNext]
  | cons w0 rest =>
    cases dec : decode w0 rest with
    | error cause =>
      rw [readyStep_of_error words dec, readyStep_of_error (s := m.apply s) words dec]
      rfl
    | ok i =>
      rw [readyStep_of_ok words dec, readyStep_of_ok (s := m.apply s) words dec]
      exact exec_apply (fun k _ => h k) s

theorem agentEnabled_apply (a : Agent) : agentEnabled (m.apply s) a = agentEnabled s a := by
  cases a with
  | controller => rfl
  | peripheral k =>
    have hper : (m.apply s).per.get k = s.per.get k := (h k).per_get s.per
    have hreg : (m.apply s).reg.get k = s.reg.get k := (h k).reg_get s.reg
    simp only [agentEnabled, frameStartEnabled, frameEndEnabled, hper, hreg]

theorem agentStep_apply (a : Agent) : agentStep env (m.apply s) a = mapNext m.apply (agentStep env s a) := by
  cases a with
  | controller =>
    have hphase : (m.apply s).phase = s.phase := rfl
    cases phase : s.phase with
    | ready =>
      simp only [agentStep, controllerStep, phase, hphase]
      exact readyStep_apply h
    | poll k d =>
      simp only [agentStep, controllerStep, phase, hphase, pollStep_apply h]
      rfl
    | collect k =>
      simp only [agentStep, controllerStep, phase, hphase, collectStep_apply h]
      rfl
  | peripheral k =>
    have hend : frameEndEnabled k (m.apply s) = frameEndEnabled k s :=
      congrArg (fun p => p.shift.isSome) ((h k).per_get s.per)
    simp only [agentStep, peripheralStep, hend, frameEnd_apply h, frameStart_apply h]
    split <;> rfl

theorem stop_apply : stop (m.apply s) = mapNext m.apply (stop s) := by
  have hfinal : (m.apply s).final = s.final := by
    have hper (k : UnitId) : (m.apply s).per.get k = s.per.get k := (h k).per_get s.per
    rw [Bool.eq_iff_iff, State.final_iff, State.final_iff]
    simp only [hper]
    rfl
  have hfault : (m.apply s).fault = s.fault := rfl
  have hrefused : (m.apply s).refused = s.refused := rfl
  have hcmd : (m.apply s).cmd = s.cmd := rfl
  have hcp : (m.apply s).cp = s.cp := rfl
  simp only [stop, hfinal, hfault, hrefused, hcmd, hcp]
  repeat' split
  all_goals rfl

/-- A step is the same on the replaced state, its next state replaced. -/
theorem stepUnder_apply : stepUnder env (m.apply s) = mapNext m.apply (stepUnder env s) := by
  have hagents : enabledAgents (m.apply s) = enabledAgents s :=
    congrArg (List.filter · _) (funext (agentEnabled_apply h))
  have hchosen (a : Agent) : chosen env (m.apply s) a = chosen env s a := by
    have hturns : (m.apply s).turns = s.turns := rfl
    simp only [chosen, agentEnabled_apply h, hturns]
  simp only [stepUnder, scheduledStep, hagents]
  split
  · exact stop_apply h
  · exact agentStep_apply h _
  · rw [hchosen]
    exact agentStep_apply (s := s.turnTaken) h _

end

/-! ## The unwritten binding -/

/-- The binding of unit `k` replaced while the unit is Unconfigured. -/
def replaceUnwritten (k : UnitId) (b : Binding) : UnitsMap where
  cfg x := x.set k (if (x.get k).configured then x.get k else { configured := false, binding := b })
  reg x := x
  per x := x

section
variable {k : UnitId} {b : Binding}

theorem replaceUnwritten_of_configured {s : State} (h : (s.cfg.get k).configured = true) :
    (replaceUnwritten k b).apply s = s := by
  simp only [UnitsMap.apply, replaceUnwritten, h, if_true, Units.set_get]

theorem replaceUnwritten_of_unconfigured {s : State} (h : (s.cfg.get k).configured = false) :
    (replaceUnwritten k b).apply s = { s with cfg := s.cfg.set k { configured := false, binding := b } } := by
  simp only [UnitsMap.apply, replaceUnwritten, h, Bool.false_eq_true, if_false]

theorem replaceUnwritten_get (x : Units UnitCfg) (u : UnitId) :
    (((replaceUnwritten k b).cfg x).get u).configured = (x.get u).configured ∧
      ((x.get u).configured = true → ((replaceUnwritten k b).cfg x).get u = x.get u) := by
  simp only [replaceUnwritten, Units.get_set]
  split
  · next hu =>
    subst hu
    cases hc : (x.get u).configured <;> simp [hc]
  · exact ⟨rfl, fun _ => rfl⟩

/-- No unit sees it: the binding is read where the unit is configured, and a commit writes all of it. -/
theorem replaceUnwritten_unseen (u : UnitId) : (replaceUnwritten k b).Unseen u where
  configured x := (replaceUnwritten_get x u).1
  binding x hc := congrArg UnitCfg.binding ((replaceUnwritten_get x u).2 hc)
  cfg_set x c hc := by
    simp only [replaceUnwritten]
    obtain rfl | rfl := k.eq_or_eq_other u
    · rw [Units.get_set_self, if_pos hc, Units.set_set, Units.set_set]
    · rw [Units.get_set_of_ne _ _ k.ne_other]
      exact Units.set_comm _ _ _ k.ne_other
  reg_get _ := rfl
  reg_set _ _ := rfl
  per_get _ := rfl
  per_set _ _ := rfl

end

/-- Settles O47: a step does not see an unwritten binding replaced; a next state in which the unit is configured holds
nothing of it, and any other has the binding as it was. -/
theorem unwrittenBindingIsNeverRead : Obligations.UnwrittenBindingIsNeverRead := by
  intro env s k b hunconf s'
  have hstep : stepUnder env s' = mapNext (replaceUnwritten k b).apply (stepUnder env s) := by
    rw [← stepUnder_apply replaceUnwritten_unseen, replaceUnwritten_of_unconfigured hunconf]
  refine ⟨fun t ht => ⟨fun hconf => ?_, fun hconf => ⟨?_, ?_⟩⟩, fun f hf => ?_, fun r hr => ?_⟩
  · rw [hstep, ht, mapNext, replaceUnwritten_of_configured hconf]
  · obtain ⟨n, hmove⟩ := exists_moves_of_stepUnder ht
    obtain hcfg | ⟨_, _, u, _, _, _, _, _, _, _, _, -, -, -, -, hcfg⟩ := hmove.cfg
    · rw [hcfg]
    · rw [hcfg, Units.get_set] at hconf ⊢
      split at hconf
      · cases hconf
      · next hu => rw [if_neg hu]
  · rw [hstep, ht, mapNext, replaceUnwritten_of_unconfigured hconf]
  · rw [hstep, hf, mapNext]
  · rw [hstep, hr, mapNext]

end Sys2Proof.Machine
